-- ==== Sys2Proof/Word.lean ====
section
/-! DEFINITION. The unit of access of the block: the byte (spec R10, R50). No wider word exists. -/

namespace Sys2Proof

/-- A byte, an unsigned integer 0..255; bit 7 is the most significant (R10, R50). -/
abbrev Byte := BitVec 8

end Sys2Proof
end

