-- ==== Sys2Proof/Config.lean ====
section
/-! DEFINITION. What an instance of the block fixes: the fixed constants and the shape of the open parameters (R7, R80),
the record that crosses the boundary (R29), and the two free values (R145, R146). The reference values and the
admissibility test are in Machine/Params.lean. -/

namespace Sys2Proof

/-! ### Fixed parameters (R7) -/

/-- `SYNC`: a frame begins with two of them (R7). -/
def sync : Byte := 0x7E

/-- `HDR_LEN`: two sync bytes and the length byte (R7). -/
def hdrLen : Nat := 3

/-- `PAYLOAD_BASE`: the frame index of payload offset 0, which is the command byte (R7, R57). -/
def payloadBase : Nat := 3

/-- `CMD_SET`: the command byte ENCODE writes (R7, R172). -/
def cmdSet : Byte := 0x01

/-! ### The ClimateState record (R29) -/

/-- Operating mode; `heatCool` is internal only and never transmitted (R29). -/
inductive Mode where
  | off | auto | cool | heat | fanOnly | dry | heatCool
  deriving DecidableEq, Repr

/-- Fan speed (R29). -/
inductive Fan where
  | auto | low | medium | high | turbo
  deriving DecidableEq, Repr

/-- A swing axis; the source's "Both" is the pair of two `full`s (R29, C10). -/
inductive Swing where
  | off | full
  deriving DecidableEq, Repr

/-- The ClimateState record: DECODE's result and ENCODE's operand. It is no state of the block (R29). -/
structure ClimateState where
  power : Bool
  mode : Mode
  /-- Setpoint, a numerator in units of `1/div(temp_set)` degree. -/
  targetTemp : Int
  /-- Measured temperature, a numerator in units of `1/div(temp_cur)` degree; produced by DECODE only. -/
  currentTemp : Int
  fan : Fan
  swingV : Swing
  swingH : Swing
  plasma : Bool
  beeper : Bool
  sleep : Bool
  xfan : Bool
  save : Bool
  /-- Raw display code; the strings behind it are the host's (R29, N12). -/
  display : Nat
  displayUnit : Nat
  deriving DecidableEq, Repr

/-! ### The layout table (R80) -/

/-- The five transmitted modes, the domain of `mode_code` (R80). -/
inductive WireMode where
  | auto | cool | dry | fanOnly | heat
  deriving DecidableEq, Repr, Inhabited

/-- The four fan levels, the domain of `fan_code` (R80). -/
inductive WireFan where
  | auto | low | medium | high
  deriving DecidableEq, Repr, Inhabited

/-- The 15 named fields of `LAYOUT` (R80). -/
inductive FieldName where
  | power | mode | fanLevel | tempSet | turbo | plasma | beeper | sleep | xfan | save
  | swingV | swingH | display | displayUnit | tempCur
  deriving DecidableEq, Repr

/-- `dir` of a field: written and read, or read only (R80). -/
inductive Direction where
  | both | decodeOnly
  deriving DecidableEq, Repr

/-- One row of `LAYOUT` (R80). -/
structure Field where
  /-- Payload byte offset: the frame index is `payloadBase + off`. -/
  off : Nat
  shift : Nat
  /-- Right-aligned mask, applied after the shift. -/
  mask : Nat
  /-- Integer encoding offset. -/
  noff : Int
  /-- Divisor; the host applies it, the block never divides (R83). -/
  div : Nat
  dir : Direction
  deriving DecidableEq, Repr

/-- `mode_code`: the raw code of each transmitted mode (R80). -/
structure ModeCodes where
  auto : Nat
  cool : Nat
  dry : Nat
  fanOnly : Nat
  heat : Nat
  deriving DecidableEq, Repr

/-- `fan_code`: the raw code of each fan level (R80). -/
structure FanCodes where
  auto : Nat
  low : Nat
  medium : Nat
  high : Nat
  deriving DecidableEq, Repr

/-- `LAYOUT`: the one table both DECODE and ENCODE read (R60, R80). -/
structure Layout where
  power : Field
  mode : Field
  fanLevel : Field
  tempSet : Field
  turbo : Field
  plasma : Field
  beeper : Field
  sleep : Field
  xfan : Field
  save : Field
  swingV : Field
  swingH : Field
  display : Field
  displayUnit : Field
  tempCur : Field
  modeCode : ModeCodes
  fanCode : FanCodes
  deriving DecidableEq, Repr

/-- An assignment of the open parameters, admissible or not (R7). -/
structure RawParams where
  /-- `DATA_MAX` -/
  dataMax : Nat
  /-- `LAYOUT` -/
  layout : Layout
  /-- `MIN_FRAME_SIZE` -/
  minFrameSize : Nat
  /-- `ENC_FRAME_SIZE` -/
  encFrameSize : Nat
  /-- `CMD_REPORT` -/
  cmdReport : Byte
  deriving DecidableEq, Repr

/-! ### Free values -/

/-- The mode DECODE returns for a powered frame whose mode code `mode_code` does not assign: one of the five transmitted
modes, which one is left open at each DECODE (R145, U1; log 2). Nothing is known of it. -/
opaque Config.freeMode : Nat → WireMode

/-- The fan DECODE returns for a frame with the turbo bit 0 and a level code `fan_code` does not assign: one of the four
levels, which one is left open at each DECODE (R146, U2; log 2). Nothing is known of it. -/
opaque Config.freeFan : Nat → WireFan

end Sys2Proof
end

