-- ==== Sys2Proof/Machine/Params.lean ====
section
/-! DEFINITION. The open parameters of the block: the layout accessors, well-formedness of `LAYOUT` (R84), admissibility
of a parameter assignment (R8), and the reference configuration REF (R9, R86, R87). -/

namespace Sys2Proof

/-- The 15 field names (R80). -/
def FieldName.all : List FieldName :=
  [.power, .mode, .fanLevel, .tempSet, .turbo, .plasma, .beeper, .sleep, .xfan, .save,
   .swingV, .swingH, .display, .displayUnit, .tempCur]

/-- The five transmitted modes (R80). -/
def WireMode.all : List WireMode := [.auto, .cool, .dry, .fanOnly, .heat]

/-- The four fan levels (R80). -/
def WireFan.all : List WireFan := [.auto, .low, .medium, .high]

/-- The row of a named field (R80). -/
def Layout.field (t : Layout) : FieldName → Field
  | .power => t.power
  | .mode => t.mode
  | .fanLevel => t.fanLevel
  | .tempSet => t.tempSet
  | .turbo => t.turbo
  | .plasma => t.plasma
  | .beeper => t.beeper
  | .sleep => t.sleep
  | .xfan => t.xfan
  | .save => t.save
  | .swingV => t.swingV
  | .swingH => t.swingH
  | .display => t.display
  | .displayUnit => t.displayUnit
  | .tempCur => t.tempCur

/-- `mode_code` as a function (R80). -/
def ModeCodes.code (c : ModeCodes) : WireMode → Nat
  | .auto => c.auto
  | .cool => c.cool
  | .dry => c.dry
  | .fanOnly => c.fanOnly
  | .heat => c.heat

/-- `fan_code` as a function (R80). -/
def FanCodes.code (c : FanCodes) : WireFan → Nat
  | .auto => c.auto
  | .low => c.low
  | .medium => c.medium
  | .high => c.high

/-- The bits of its byte that a field claims. -/
def Field.bits (f : Field) : Nat := f.mask <<< f.shift

/-- R84 (a), (b), (h): the field is a run of bits inside one byte between the command byte and the checksum byte of the
shortest accepted frame, and its numeric transform is in range. -/
def Field.wellFormed (minFrameSize : Nat) (f : Field) : Bool :=
  decide (f.shift ≤ 7) && [1, 3, 7, 15, 31, 63, 127, 255].contains f.mask && decide (f.bits ≤ 0xFF)
    && decide (1 ≤ f.off) && decide (f.off + 5 ≤ minFrameSize)
    && decide (1 ≤ f.div) && decide (-256 ≤ f.noff) && decide (f.noff ≤ 255)

/-- The nine one-bit fields of R84 (f). -/
def FieldName.isFlag : FieldName → Bool
  | .power | .turbo | .plasma | .beeper | .sleep | .xfan | .save | .swingV | .swingH => true
  | .mode | .fanLevel | .tempSet | .display | .displayUnit | .tempCur => false

/-- The two fields that may carry a numeric offset or a divisor (R83, R84 (f)). -/
def FieldName.isNumeric : FieldName → Bool
  | .tempSet | .tempCur => true
  | .power | .mode | .fanLevel | .turbo | .plasma | .beeper | .sleep | .xfan | .save
  | .swingV | .swingH | .display | .displayUnit => false

/-- The direction R84 (g) prescribes. -/
def FieldName.direction : FieldName → Direction
  | .tempCur => .decodeOnly
  | .power | .mode | .fanLevel | .tempSet | .turbo | .plasma | .beeper | .sleep | .xfan | .save
  | .swingV | .swingH | .display | .displayUnit => .both

/-- R84 (c): two different fields claim no common bit of one byte. -/
def Layout.noOverlap (t : Layout) : Bool :=
  FieldName.all.all fun f => FieldName.all.all fun g =>
    decide (f = g) || decide ((t.field f).off ≠ (t.field g).off)
      || decide ((t.field f).bits &&& (t.field g).bits = 0)

/-- R84 (d), (e): Auto is code 0 in both maps, both maps are injective, every code fits its field, and the fields are
wide enough. -/
def Layout.codesFit (t : Layout) : Bool :=
  decide (t.modeCode.auto = 0) && decide (t.fanCode.auto = 0)
    && (WireMode.all.all fun m => decide (t.modeCode.code m ≤ t.mode.mask)
          && WireMode.all.all fun n => decide (m = n) || decide (t.modeCode.code m ≠ t.modeCode.code n))
    && (WireFan.all.all fun m => decide (t.fanCode.code m ≤ t.fanLevel.mask)
          && WireFan.all.all fun n => decide (m = n) || decide (t.fanCode.code m ≠ t.fanCode.code n))
    && decide (7 ≤ t.mode.mask) && decide (3 ≤ t.fanLevel.mask)

/-- `LAYOUT` is well-formed (R84). -/
def Layout.wellFormed (minFrameSize : Nat) (t : Layout) : Bool :=
  (FieldName.all.all fun f => (t.field f).wellFormed minFrameSize)
    && t.noOverlap && t.codesFit
    && (FieldName.all.all fun f => !f.isFlag || decide ((t.field f).mask = 1))
    && (FieldName.all.all fun f => f.isNumeric || (decide ((t.field f).noff = 0) && decide ((t.field f).div = 1)))
    && (FieldName.all.all fun f => decide ((t.field f).dir = f.direction))

/-- R8 (b) to (f): the clauses that do not speak of `DATA_MAX`. Clause (c) follows from R84 (b) and is kept for the
reader. -/
def codecAdmissible (layout : Layout) (minFrameSize encFrameSize : Nat) (cmdReport : Byte) : Bool :=
  layout.wellFormed minFrameSize
    && (FieldName.all.all fun f => decide (payloadBase + (layout.field f).off + 2 ≤ minFrameSize))
    && decide (minFrameSize ≤ encFrameSize) && decide (encFrameSize ≤ 258)
    && decide (encFrameSize - hdrLen ≠ sync.toNat)
    && decide (cmdReport ≠ cmdSet)

/-- A parameter assignment is admissible (R8); clause (a) is the bound on `DATA_MAX`. -/
def RawParams.admissible (p : RawParams) : Bool :=
  decide (4 ≤ p.dataMax) && codecAdmissible p.layout p.minFrameSize p.encFrameSize p.cmdReport

/-- The parameters of an instance. The spec describes the block for admissible assignments only (R8), so the assignment
carries its admissibility. -/
structure Params extends RawParams where
  ok : toRawParams.admissible = true
  deriving DecidableEq, Repr

/-- `LEN_W = ceil(log2(DATA_MAX + 1))`, the width of the `len` and `rd_idx` ports (R23, R40). -/
def Params.lenWidth (p : Params) : Nat := Nat.log2 p.dataMax + 1

/-- A one-bit field of `LAYOUT_REF`. -/
def Field.flag (off shift : Nat) : Field := ⟨off, shift, 0x01, 0, 1, .both⟩

/-- `LAYOUT_REF`, the reference layout and code maps (R86, R87). -/
def Layout.ref : Layout where
  power := .flag 1 7
  mode := ⟨1, 4, 0x07, 0, 1, .both⟩
  fanLevel := ⟨1, 0, 0x03, 0, 1, .both⟩
  tempSet := ⟨2, 4, 0x0F, -16, 1, .both⟩
  turbo := .flag 3 0
  plasma := .flag 3 1
  beeper := .flag 3 2
  sleep := .flag 3 3
  xfan := .flag 3 4
  save := .flag 3 5
  swingV := .flag 4 4
  swingH := .flag 4 0
  display := ⟨5, 0, 0x07, 0, 1, .both⟩
  displayUnit := ⟨5, 3, 0x01, 0, 1, .both⟩
  tempCur := ⟨43, 0, 0xFF, 40, 2, .decodeOnly⟩
  modeCode := ⟨0, 1, 2, 3, 4⟩
  fanCode := ⟨0, 1, 2, 3⟩

/-- REF's assignment, with another `DATA_MAX` where a vector of the spec uses one (R9). -/
def RawParams.ref (dataMax : Nat) : RawParams := ⟨dataMax, Layout.ref, 48, 48, 0x04⟩

/-- REF with `DATA_MAX = dataMax`; every value from 4 on is admissible (R8 (a)). -/
def Params.refWith (dataMax : Nat) (h : 4 ≤ dataMax) : Params where
  toRawParams := RawParams.ref dataMax
  ok := by
    have hc : codecAdmissible Layout.ref 48 48 0x04 = true := by decide
    simp only [RawParams.admissible, RawParams.ref, hc, Bool.and_true]
    exact decide_eq_true h

/-- REF: `DATA_MAX = 64` (R9). -/
def Params.ref : Params := Params.refWith 64 (by decide)

end Sys2Proof
end

