-- ==== Sys2Proof/Machine/Ports.lean ====
section
/-! DEFINITION. The pins of the block (R40) as data: what the host drives in one cycle, what it sees, and the stream of
stimuli the host has in store. The port codes of R30 are in Machine/Operands.lean. -/

namespace Sys2Proof

/-- A ClimateState as the bits of `enc_in` or `dec_out` (R30). The two display codes get 8 bits, the widest mask R84
admits (log 5). -/
structure ClimatePorts where
  power : Bool
  mode : BitVec 3
  targetTemp : BitVec 10
  currentTemp : BitVec 10
  fan : BitVec 3
  swingV : Bool
  swingH : Bool
  plasma : Bool
  beeper : Bool
  sleep : Bool
  xfan : Bool
  save : Bool
  display : BitVec 8
  displayUnit : BitVec 8
  deriving DecidableEq, Repr

/-- `enc_in` with every bit 0. -/
def ClimatePorts.zero : ClimatePorts :=
  ⟨false, 0, 0, 0, 0, false, false, false, false, false, false, false, 0, 0⟩

/-- The input pins of one clock cycle (R40); `clk` is the step itself. -/
structure PortsIn where
  rst : Bool
  op : BitVec 3
  rxData : Byte
  encIn : ClimatePorts
  /-- The number driven on `rd_idx`. The port's width depends on the instance, and `PortsIn.rdPort` is what it
  carries (R40; log 16). -/
  rdIdx : Nat
  deriving DecidableEq, Repr

/-- The pins of a cycle in which the host calls nothing: `op` = NOP, every other pin 0 (R121, log 4). -/
def PortsIn.idle : PortsIn := ⟨false, 0, 0, .zero, 0⟩

/-- One entry of what the host has in store for the block. -/
inductive Stimulus where
  /-- One clock cycle with these input pins. -/
  | cycle (p : PortsIn)
  /-- Bytes waiting in the transport, drained by the host's reference receive loop: the pseudo-operation
  POLL (R94, R240). -/
  | line (bytes : List Byte)
  deriving DecidableEq, Repr

/-- The result code `ev` (R200). It is an output of its cycle and is not stored by the block. -/
inductive Event where
  | none | framingOverflow | underlengthFrame | checksumMismatch | noFrame | feedNotAccepted
  deriving DecidableEq, Repr

/-- The combinational outputs of the cycle just performed (R40). `Option.none` is the absent value of R13, R41 and U16:
the spec gives no byte, record or frame there (log 6). -/
structure PortsOut where
  ev : Event
  decOut : Option ClimateState
  txFrame : Option (List Byte)
  rdData : Option Byte
  deriving DecidableEq, Repr

/-- The outputs before any cycle: no event, no result (R44). -/
def PortsOut.quiet : PortsOut := ⟨.none, .none, .none, .none⟩

end Sys2Proof
end

