-- ==== Sys2Proof/Machine/Operands.lean ====
section
/-! DEFINITION. The operand forms: the port codes of a ClimateState (R30), the index on the read port (R40),
a record's validity for ENCODE (R31), and the neutral record of the notation (R93). -/

namespace Sys2Proof

/-- Mode on the ports, in the source's order (R30). -/
def Mode.portCode : Mode → BitVec 3
  | .off => 0
  | .auto => 1
  | .cool => 2
  | .heat => 3
  | .fanOnly => 4
  | .dry => 5
  | .heatCool => 6

/-- The Mode a port code stands for; code 7 is treated as HeatCool is (R30, R183 (c)). -/
def Mode.ofPort (v : BitVec 3) : Mode :=
  if v = 0 then .off else if v = 1 then .auto else if v = 2 then .cool else if v = 3 then .heat
  else if v = 4 then .fanOnly else if v = 5 then .dry else .heatCool

/-- Fan on the ports (R30). -/
def Fan.portCode : Fan → BitVec 3
  | .auto => 0
  | .low => 1
  | .medium => 2
  | .high => 3
  | .turbo => 4

/-- The Fan a port code stands for; codes 5 to 7 are treated as Auto is (R30, R183 (f)). -/
def Fan.ofPort (v : BitVec 3) : Fan :=
  if v = 1 then .low else if v = 2 then .medium else if v = 3 then .high else if v = 4 then .turbo else .auto

/-- Swing on the ports: Full = 1 (R30). -/
def Swing.portBit : Swing → Bool
  | .off => false
  | .full => true

/-- The Swing a port bit stands for (R30). -/
def Swing.ofPort (b : Bool) : Swing := if b then .full else .off

/-- A ClimateState as the bits of `dec_out` or `enc_in` (R30). -/
def ClimateState.toPorts (c : ClimateState) : ClimatePorts where
  power := c.power
  mode := c.mode.portCode
  targetTemp := BitVec.ofInt 10 c.targetTemp
  currentTemp := BitVec.ofInt 10 c.currentTemp
  fan := c.fan.portCode
  swingV := c.swingV.portBit
  swingH := c.swingH.portBit
  plasma := c.plasma
  beeper := c.beeper
  sleep := c.sleep
  xfan := c.xfan
  save := c.save
  display := BitVec.ofNat 8 c.display
  displayUnit := BitVec.ofNat 8 c.displayUnit

/-- The ClimateState the bits of `enc_in` present (R30): temperatures are two's complement, display codes unsigned. -/
def ClimatePorts.toState (w : ClimatePorts) : ClimateState where
  power := w.power
  mode := Mode.ofPort w.mode
  targetTemp := w.targetTemp.toInt
  currentTemp := w.currentTemp.toInt
  fan := Fan.ofPort w.fan
  swingV := Swing.ofPort w.swingV
  swingH := Swing.ofPort w.swingH
  plasma := w.plasma
  beeper := w.beeper
  sleep := w.sleep
  xfan := w.xfan
  save := w.save
  display := w.display.toNat
  displayUnit := w.displayUnit.toNat

/-- What the `rd_idx` port carries: `LEN_W` bits (R40; log 16). -/
def PortsIn.rdPort (p : Params) (w : PortsIn) : BitVec p.lenWidth := BitVec.ofNat p.lenWidth w.rdIdx

/-- The record is valid for ENCODE and for the round-trip law (R31). -/
def ClimateState.valid (p : Params) (c : ClimateState) : Bool :=
  decide (c.mode ≠ .heatCool)
    && decide (c.power = decide (c.mode ≠ .off))
    && decide (0 ≤ c.targetTemp + p.layout.tempSet.noff)
    && decide (c.targetTemp + p.layout.tempSet.noff ≤ p.layout.tempSet.mask)
    && decide (c.display ≤ p.layout.display.mask) && decide (c.displayUnit ≤ p.layout.displayUnit.mask)

/-- The neutral record: what an omitted field of the notation `ENCODE { … }` stands for (R93). The setpoint is the lowest
transmissible one, raw value 0; `current_temp`, which ENCODE does not read, is 0 (log 19). -/
def ClimateState.neutral (p : Params) : ClimateState where
  power := false
  mode := .off
  targetTemp := -p.layout.tempSet.noff
  currentTemp := 0
  fan := .auto
  swingV := .off
  swingH := .off
  plasma := false
  beeper := false
  sleep := false
  xfan := false
  save := false
  display := 0
  displayUnit := 0

end Sys2Proof
end

