-- ==== Sys2Proof/Syntax.lean ====
section
/-! DEFINITION. The instructions: one constructor per row of the opcode table (R70, R71, R72, R76, R95). -/

namespace Sys2Proof

/-- A frame as the wire format gives it, after its two sync bytes (R73): the length byte L, the command byte, and the
bytes from frame index 4 to the checksum byte. In the shortest frame (L = 1) index 3 is the checksum byte itself and
`body` is empty. -/
structure RawFrame where
  len : Byte
  cmd : Byte
  body : List Byte
  deriving DecidableEq, Repr

/-- The bytes of a frame in index order, which is the order of the line (R51, R73). -/
def RawFrame.bytes (f : RawFrame) : List Byte := sync :: sync :: f.len :: f.cmd :: f.body

/-- The instructions of the block. -/
inductive Instr where
  /-- NOP (R121). -/
  | nop
  /-- FEED `rx_data` (R110). -/
  | feed (b : Byte)
  /-- RESTART (R120). -/
  | restart
  /-- DECODE (R150). -/
  | decode
  /-- ENCODE `enc_in` (R170). -/
  | encode (c : ClimateState)
  /-- Reserved `op` code 5 (R72). -/
  | reservedOp5
  /-- Reserved `op` code 6 (R72). -/
  | reservedOp6
  /-- Reserved `op` code 7 (R72). -/
  | reservedOp7
  /-- A cycle with `rst` = 1 (R44). -/
  | reset
  /-- A parameter-set frame on the line (R76). -/
  | frameSet (f : RawFrame)
  /-- A unit report on the line (R76). -/
  | frameReport (f : RawFrame)
  /-- A frame with any other command byte on the line (R73, R76). -/
  | frameAny (f : RawFrame)
  deriving DecidableEq, Repr

end Sys2Proof
end

