-- ==== Sys2Proof/WellFormed.lean ====
section
/-! DEFINITION. Which instructions have an encoding: ENCODE's operand fits the pins of `enc_in` (R30), a frame has the
length its length byte tells (R73), and its constructor is the one its command byte selects (R76). Validity of a
ClimateState for ENCODE (R31) is no part of this: ENCODE runs on every operand (R180, R183). -/

namespace Sys2Proof

/-- The total length of a frame with length byte `l`: `3 + L` (R73). For `L = 0` it is 259, the length at which the Framer
completes such a frame (R125, R127; log 7). -/
def frameLength (l : Byte) : Nat := if l = 0 then 259 else hdrLen + l.toNat

/-- The frame has the length its length byte tells (R73). -/
def RawFrame.wellFormed (f : RawFrame) : Bool := decide (f.body.length + 4 = frameLength f.len)

/-- The record can be presented on `enc_in`: 10-bit temperatures (R30) and 8-bit display codes (log 5). -/
def ClimateState.portable (c : ClimateState) : Bool :=
  decide (-512 ≤ c.targetTemp) && decide (c.targetTemp ≤ 511)
    && decide (-512 ≤ c.currentTemp) && decide (c.currentTemp ≤ 511)
    && decide (c.display ≤ 255) && decide (c.displayUnit ≤ 255)

/-- The instruction has an encoding in an instance with parameters `p`. -/
def Instr.wellFormed (p : Params) : Instr → Bool
  | .encode c => c.portable
  | .frameSet f => f.wellFormed && decide (f.cmd = cmdSet)
  | .frameReport f => f.wellFormed && decide (f.cmd = p.cmdReport)
  | .frameAny f => f.wellFormed && decide (f.cmd ≠ cmdSet) && decide (f.cmd ≠ p.cmdReport)
  | .nop | .feed _ | .restart | .decode | .reservedOp5 | .reservedOp6 | .reservedOp7 | .reset => true

end Sys2Proof
end

