-- ==== Sys2Proof/Decode.lean ====
section
/-! DEFINITION. From the pins of a cycle, or the bytes on the line, to an instruction (R71, R73, R76), and back. -/

namespace Sys2Proof

/-- Why bytes on the line begin no whole frame. -/
inductive Reject where
  /-- There is no byte. -/
  | lineEmpty
  /-- The first two bytes are not the sync marker (R73). -/
  | noSync
  /-- The bytes end before the length the length byte tells (R73, R74). -/
  | truncated
  deriving DecidableEq, Repr

/-- The instruction of one clock cycle: `rst` = 1 overrides `op` (R44, R205); otherwise the 3-bit code selects the
operation and its operand is on its own port (R71). Every code has a row, so this never rejects. -/
def decodeCycle (p : PortsIn) : Instr :=
  if p.rst then .reset
  else if p.op = 0 then .nop
  else if p.op = 1 then .feed p.rxData
  else if p.op = 2 then .restart
  else if p.op = 3 then .decode
  else if p.op = 4 then .encode p.encIn.toState
  else if p.op = 5 then .reservedOp5
  else if p.op = 6 then .reservedOp6
  else .reservedOp7

/-- The frame kind a command byte selects (R76). -/
def frameKind (cmdReport : Byte) (f : RawFrame) : Instr :=
  if f.cmd = cmdSet then .frameSet f else if f.cmd = cmdReport then .frameReport f else .frameAny f

/-- The frame the bytes on the line begin with, and the bytes after it (R73, R74). -/
def decodeFrame (cmdReport : Byte) : List Byte → Except Reject (Instr × List Byte)
  | [] => .error .lineEmpty
  | s0 :: s1 :: l :: c :: rest =>
    if s0 = sync ∧ s1 = sync then
      if frameLength l ≤ rest.length + 4 then
        .ok (frameKind cmdReport ⟨l, c, rest.take (frameLength l - 4)⟩, rest.drop (frameLength l - 4))
      else .error .truncated
    else .error .noSync
  | [s0] => .error (if s0 = sync then .truncated else .noSync)
  | [s0, s1] => .error (if s0 = sync ∧ s1 = sync then .truncated else .noSync)
  | [s0, s1, _] => .error (if s0 = sync ∧ s1 = sync then .truncated else .noSync)

/-- The decoder: the instruction a stimulus stands for and the bytes left on the line. -/
def decode (p : Params) : Stimulus → Except Reject (Instr × List Byte)
  | .cycle w => .ok (decodeCycle w, [])
  | .line bs => decodeFrame p.cmdReport bs

/-- The encoder: the pins or the bytes that stand for an instruction (R71, R73). -/
def encode : Instr → Stimulus
  | .nop => .cycle { PortsIn.idle with op := 0 }
  | .feed b => .cycle { PortsIn.idle with op := 1, rxData := b }
  | .restart => .cycle { PortsIn.idle with op := 2 }
  | .decode => .cycle { PortsIn.idle with op := 3 }
  | .encode c => .cycle { PortsIn.idle with op := 4, encIn := c.toPorts }
  | .reservedOp5 => .cycle { PortsIn.idle with op := 5 }
  | .reservedOp6 => .cycle { PortsIn.idle with op := 6 }
  | .reservedOp7 => .cycle { PortsIn.idle with op := 7 }
  | .reset => .cycle { PortsIn.idle with rst := true }
  | .frameSet f => .line f.bytes
  | .frameReport f => .line f.bytes
  | .frameAny f => .line f.bytes

/-- The stimulus the opcode table numbers `w`: the 3-bit `op` port, the 1-bit `rst` port (`nbits` = 1, log 8), or the
32-bit word W of the first four frame bytes, index 0 most significant (R76, R95). The operand bits the table does not
number are 0, and a frame is as long as its length byte tells. -/
def tableStimulus (nbits w : Nat) : Option Stimulus :=
  if nbits = 0 then none
  else if nbits = 1 then
    if w < 2 then some (.cycle { PortsIn.idle with rst := decide (w = 1) }) else none
  else if nbits ≤ 8 then
    if w < 8 then some (.cycle { PortsIn.idle with op := BitVec.ofNat 3 w }) else none
  else if nbits = 32 then
    if w < 2 ^ 32 then
      let l : Byte := BitVec.ofNat 8 (w / 2 ^ 8)
      some (.line ([BitVec.ofNat 8 (w / 2 ^ 24), BitVec.ofNat 8 (w / 2 ^ 16), l, BitVec.ofNat 8 w]
        ++ List.replicate (frameLength l - 4) 0))
    else none
  else none

/-- The instruction the decoder reads from the table's number `w`, in REF. -/
def decodeTableWord (nbits w : Nat) : Option Instr :=
  match tableStimulus nbits w with
  | none => none
  | some x =>
    match decode Params.ref x with
    | .ok (i, _) => some i
    | .error _ => none

end Sys2Proof
end

