-- ==== Sys2Proof/Machine/State.lean ====
section
/-! DEFINITION. The machine's state as plain data, its fault and refusal reasons, and the state after reset. -/

namespace Sys2Proof.Machine

/-- The Framer's sequencing state (R21). -/
inductive Fstate where
  | awaitingSync | receiving | complete | restart
  deriving DecidableEq, Repr

/-- The receive buffer together with `len`: the list of the bytes it holds, index 0 first (R22, R33; log 9). -/
abbrev Memory := List Byte

/-- The state. The block's own elements are exactly `fstate`, `buf` (with `len`) and `frameSize` (R20); the other fields
are the model's: the constants of the instance, the pins, the counter of the free values, and the host's stimuli. -/
structure State where
  /-- The parameters of this instance; no step changes them (R7, R60). -/
  params : Params
  /-- `fstate` (R21). -/
  fstate : Fstate
  /-- `buf[0..len)`; `len` is its length (R22, R23). -/
  buf : Memory
  /-- `frame_size`, the countdown of bytes still expected (R24). -/
  frameSize : BitVec 8
  /-- The outputs of the last cycle (R40; log 14). -/
  out : PortsOut
  /-- How many DECODEs have drawn their free values (R145, R146; log 2). -/
  draws : Nat
  /-- What the host has in store, next first (R5). An empty store is an idle host (R121; log 4, log 12). -/
  pending : List Stimulus
  deriving DecidableEq, Repr

/-- Why the machine stops. The block itself has no trap (R90, R206). -/
inductive Fault where
  /-- FEED (and a FRAME row's first FEED) in a state whose buffer already holds `DATA_MAX` bytes: `buf[len]` does not exist
  (R22). No state that a run reaches is one (R45, R56; log 10). Safe. -/
  | appendOutsideBuffer
  deriving DecidableEq, Repr

/-- Why an instruction has no meaning. No instruction of this model is refused. -/
inductive Refusal where
  /-- An instruction rejected by name in exec's arm; raised by no arm. Safe. -/
  | notModelled (mnemonic : String)
  deriving DecidableEq, Repr

/-- `len`, the number of bytes the buffer holds (R23). -/
def State.len (s : State) : Nat := s.buf.length

/-- The machine right after reset (R44, R230), an instance with the reference parameters REF (R9; log 1), an idle host
(log 4), and no cycle performed yet. -/
def State.reset : State where
  params := Params.ref
  fstate := .awaitingSync
  buf := []
  frameSize := 0
  out := PortsOut.quiet
  draws := 0
  pending := []

end Sys2Proof.Machine
end

