-- ==== Sys2Proof/Machine/Flags.lean ====
section
/-! DEFINITION. The status outputs: functions of the state (R27, R34) and the codes the output ports carry (R21, R200). -/

namespace Sys2Proof.Machine

/-- `frame_valid` (R27). -/
def State.frameValid (s : State) : Bool := decide (s.fstate = .complete)

/-- `feed_ready` (R27). -/
def State.feedReady (s : State) : Bool := decide (s.fstate ≠ .complete)

/-- The code of `fstate` on its port (R21). -/
def Fstate.portCode : Fstate → BitVec 2
  | .awaitingSync => 0
  | .receiving => 1
  | .complete => 2
  | .restart => 3

/-- `LEN_W` of this instance (R23). -/
def State.lenWidth (s : State) : Nat := s.params.lenWidth

/-- The `len` port (R23, R40). -/
def State.lenPort (s : State) : BitVec s.lenWidth := BitVec.ofNat s.lenWidth s.len

/-- `tx_valid`: a frame stands on `tx_frame` (R40, R179). -/
def State.txValid (s : State) : Bool := s.out.txFrame.isSome

end Sys2Proof.Machine

namespace Sys2Proof

/-- The numeric result code on the `ev` port (R200). -/
def Event.code : Event → BitVec 3
  | .none => 0
  | .framingOverflow => 1
  | .underlengthFrame => 2
  | .checksumMismatch => 3
  | .noFrame => 4
  | .feedNotAccepted => 5

end Sys2Proof
end

