-- ==== Sys2Proof/Machine/Ops.lean ====
section
/-! DEFINITION. The named operations over the buffer and the state: buffer access (R12, R41, R54), reporting a result or an
event (R12, R200), the recovery from an overflow (R118, R207), and the release of a frame (R120, R208). -/

namespace Sys2Proof.Machine

/-! ### The receive buffer -/

/-- One byte of the buffer. An index at or above `len` holds no value (R22, R26). -/
def Memory.read (m : Memory) (i : Nat) : Option Byte := m[i]?

/-- `MemRead(i, n)`: the bytes `buf[i..i+n)`, defined only when `i + n <= len` (R12). -/
def Memory.readRange (m : Memory) (i n : Nat) : Option (List Byte) :=
  if i + n ≤ m.length then some ((m.drop i).take n) else none

/-- `buf[len] <- b; len <- len + 1` (R112). -/
def Memory.append (m : Memory) (b : Byte) : Memory := m ++ [b]

/-- The buffer after a header: the three header bytes and nothing else (R115). -/
def Memory.header (x : Byte) : Memory := [sync, sync, x]

/-- The header test on the last three bytes (R114). -/
def Memory.endsInHeader (m : Memory) : Bool :=
  decide (3 ≤ m.length) && decide (m.read (m.length - 3) = some sync) && decide (m.read (m.length - 2) = some sync)
    && decide (m.read (m.length - 1) ≠ some sync)

/-- The buffer fits the instance (R22, R23). -/
def Memory.wf (p : Params) (m : Memory) : Bool := decide (m.length ≤ p.dataMax)

/-- The buffer as address and byte pairs, addresses rising from 0 (R33). -/
def Memory.cells (m : Memory) : List Host.Cell := m.zipIdx.map fun x => (x.2, x.1)

/-! ### Results and events -/

/-- The result of an operation that returns neither a record nor a frame: `ev <- e`. This is also how an event is taken:
it saves nothing and transfers control nowhere (R12, R200, R206). -/
def State.report (e : Event) (s : State) : State :=
  { s with out := { s.out with ev := e, decOut := none, txFrame := none } }

/-- The result of a successful DECODE: `ev <- None; dec_out <- c` (R150). -/
def State.reportDecoded (c : ClimateState) (s : State) : State :=
  { s with out := { s.out with ev := .none, decOut := some c, txFrame := none } }

/-- The result of ENCODE: `tx_frame <- F; tx_valid <- 1; ev <- None` (R170, R179). -/
def State.reportFrame (frame : List Byte) (s : State) : State :=
  { s with out := { s.out with ev := .none, decOut := none, txFrame := some frame } }

/-- The recovery from FramingOverflow: the buffer is cleared and scanning restarts; `frame_size` keeps its value
(R118, R207). -/
def State.recover (s : State) : State := { s with buf := [], fstate := .awaitingSync }

/-- The release of a frame, the block's only return: `fstate <- Restart` and nothing else (R120, R208). -/
def State.release (s : State) : State := { s with fstate := .restart }

/-- The Framer's elements at their reset values (R44). -/
def State.clearFramer (s : State) : State := { s with fstate := .awaitingSync, buf := [], frameSize := 0 }

/-- One more DECODE has drawn its free values (R145). -/
def State.countDraw (s : State) : State := { s with draws := s.draws + 1 }

/-- Stimuli put before those the host has in store. -/
def State.pushPending (xs : List Stimulus) (s : State) : State := { s with pending := xs ++ s.pending }

end Sys2Proof.Machine
end

