-- ==== Sys2Proof/Machine/Codec.lean ====
section
/-! DEFINITION. The Codec as pure functions: checksum (R140), extraction and insertion of a field (R81, R82), `decode`
(R141 to R149) and `encode` (R171 to R178). They hold and read no state (R6). -/

namespace Sys2Proof.Machine.Codec

/-! ### Checksum and bit-fields -/

/-- `lo8(v)`: the low 8 bits of v's two's-complement representation (R10). -/
def lo8 (v : Int) : Nat := (BitVec.ofInt 8 v).toNat

/-- `cks(F)`: the sum of the bytes at indices 2 to N-2, mod 256 (R140). -/
def cks (frame : List Byte) : Byte := BitVec.ofNat 8 ((frame.drop 2).dropLast.map BitVec.toNat).sum

/-- The frame index of a field's byte (R80). -/
def fieldIndex (f : Field) : Nat := payloadBase + f.off

/-- `raw(F, f)` (R81). It is defined when the field's byte exists, which the length check guarantees in every admissible
instance (R8 (c), R141); the 0 beyond the end is read in none (log 18). -/
def raw (frame : List Byte) (f : Field) : Nat := ((frame.getD (fieldIndex f) 0).toNat >>> f.shift) &&& f.mask

/-- `put(F, f, v)`: OR the masked, shifted value into the field's byte (R82). -/
def put (frame : List Byte) (f : Field) (v : Int) : List Byte :=
  frame.modify (fieldIndex f) fun b => b ||| BitVec.ofNat 8 ((lo8 v &&& f.mask) <<< f.shift)

/-! ### decode -/

/-- The two errors of `decode` (R141, R142). -/
inductive DecodeError where
  | underlengthFrame | checksumMismatch
  deriving DecidableEq, Repr

/-- The event that reports an error (R150, R200). -/
def DecodeError.event : DecodeError → Event
  | .underlengthFrame => .underlengthFrame
  | .checksumMismatch => .checksumMismatch

/-- The mode a raw code is assigned to, if any (R145). -/
def modeOfCode (c : ModeCodes) (r : Nat) : Option WireMode := WireMode.all.find? fun m => decide (c.code m = r)

/-- The fan level a raw code is assigned to, if any (R146). -/
def fanOfCode (c : FanCodes) (r : Nat) : Option WireFan := WireFan.all.find? fun v => decide (c.code v = r)

/-- A transmitted mode as a Mode (R29, R80). -/
def modeOfWire : WireMode → Mode
  | .auto => .auto
  | .cool => .cool
  | .dry => .dry
  | .fanOnly => .fanOnly
  | .heat => .heat

/-- A fan level as a Fan (R29, R80). -/
def fanOfWire : WireFan → Fan
  | .auto => .auto
  | .low => .low
  | .medium => .medium
  | .high => .high

/-- The decoded mode, gated by power; `free` stands for the mode an unassigned code leaves open (R145). -/
def decodedMode (t : Layout) (free : WireMode) (frame : List Byte) : Mode :=
  if raw frame t.power = 0 then .off else modeOfWire ((modeOfCode t.modeCode (raw frame t.mode)).getD free)

/-- The decoded fan: the turbo bit carries the selection; `free` stands for the level an unassigned code leaves
open (R146). -/
def decodedFan (t : Layout) (free : WireFan) (frame : List Byte) : Fan :=
  if raw frame t.turbo = 1 then .turbo else fanOfWire ((fanOfCode t.fanCode (raw frame t.fanLevel)).getD free)

/-- The ClimateState of a frame that passed both checks (R143 to R148). -/
def extract (t : Layout) (freeMode : WireMode) (freeFan : WireFan) (frame : List Byte) : ClimateState where
  power := decide (raw frame t.power = 1)
  mode := decodedMode t freeMode frame
  targetTemp := (raw frame t.tempSet : Int) - t.tempSet.noff
  currentTemp := (raw frame t.tempCur : Int) - t.tempCur.noff
  fan := decodedFan t freeFan frame
  swingV := Swing.ofPort (decide (raw frame t.swingV = 1))
  swingH := Swing.ofPort (decide (raw frame t.swingH = 1))
  plasma := decide (raw frame t.plasma = 1)
  beeper := decide (raw frame t.beeper = 1)
  sleep := decide (raw frame t.sleep = 1)
  xfan := decide (raw frame t.xfan = 1)
  save := decide (raw frame t.save = 1)
  display := raw frame t.display
  displayUnit := raw frame t.displayUnit

/-- `decode(F)` for any byte sequence: the length check, then the checksum check, then the fields (R141 to R149, R151).
The two free arguments are the values R145 and R146 leave open. -/
def decodeFrame (p : Params) (freeMode : WireMode) (freeFan : WireFan) (frame : List Byte) :
    Except DecodeError ClimateState :=
  if frame.length < p.minFrameSize then .error .underlengthFrame
  else if some (cks frame) ≠ frame.getLast? then .error .checksumMismatch
  else .ok (extract p.layout freeMode freeFan frame)

/-! ### encode -/

/-- A Bool as a raw value (R87). -/
def bitOf (b : Bool) : Int := if b then 1 else 0

/-- The transmitted mode a Mode is, if it is one: Off and HeatCool write no mode field (R173). -/
def wireOfMode : Mode → Option WireMode
  | .auto => some .auto
  | .cool => some .cool
  | .dry => some .dry
  | .fanOnly => some .fanOnly
  | .heat => some .heat
  | .off => none
  | .heatCool => none

/-- The level a Fan writes: Turbo writes High beneath the turbo bit (R175). -/
def levelOfFan : Fan → WireFan
  | .auto => .auto
  | .low => .low
  | .medium => .medium
  | .high => .high
  | .turbo => .high

/-- The mode field's write (R173). -/
def modeWrites (t : Layout) (c : ClimateState) : List (FieldName × Int) :=
  match wireOfMode c.mode with
  | some m => [(.mode, t.modeCode.code m)]
  | none => []

/-- The fan's writes, with the dual write of Turbo (R175). -/
def fanWrites (t : Layout) (c : ClimateState) : List (FieldName × Int) :=
  if c.fan = .turbo then [(.turbo, 1), (.fanLevel, t.fanCode.code .high)]
  else [(.fanLevel, t.fanCode.code (levelOfFan c.fan))]

/-- The `put`s of ENCODE in order; `temp_cur` is not among them (R173 to R177). -/
def encodeWrites (t : Layout) (c : ClimateState) : List (FieldName × Int) :=
  [(.power, bitOf c.power)] ++ modeWrites t c ++ [(.tempSet, c.targetTemp + t.tempSet.noff)] ++ fanWrites t c
    ++ [(.swingV, bitOf c.swingV.portBit), (.swingH, bitOf c.swingH.portBit),
        (.plasma, bitOf c.plasma), (.beeper, bitOf c.beeper), (.sleep, bitOf c.sleep),
        (.xfan, bitOf c.xfan), (.save, bitOf c.save),
        (.display, (c.display : Int)), (.displayUnit, (c.displayUnit : Int))]

/-- The `put`s of a list, in order. -/
def putAll (t : Layout) (ws : List (FieldName × Int)) (frame : List Byte) : List Byte :=
  ws.foldl (fun g w => put g (t.field w.1) w.2) frame

/-- The zero-filled frame with sync bytes, length and command (R171, R172). -/
def blankFrame (n : Nat) : List Byte :=
  [sync, sync, BitVec.ofNat 8 (n - hdrLen), cmdSet] ++ List.replicate (n - 4) 0

/-- The last byte replaced by the checksum of the rest (R178). -/
def sealFrame (frame : List Byte) : List Byte := frame.set (frame.length - 1) (cks frame)

/-- `encode(s)`: total, for every record, valid or not (R170 to R180, R183). -/
def encodeFrame (p : Params) (c : ClimateState) : List Byte :=
  sealFrame (putAll p.layout (encodeWrites p.layout c) (blankFrame p.encFrameSize))

end Sys2Proof.Machine.Codec
end

