-- ==== Sys2Proof/Machine/CodecOps.lean ====
section
/-! DEFINITION. The operations DECODE and ENCODE: the Codec's functions on the buffer and on `enc_in`. -/

namespace Sys2Proof.Machine

/-- DECODE of the buffer (R150): NoFrame unless a frame is complete, then the two errors of `decode` in its order (R205),
then the record. The free values of R145 and R146 are drawn afresh at each DECODE. -/
def State.decodeBuffer (s : State) : Host.Outcome State Fault Refusal :=
  if s.fstate ≠ .complete then .next (s.report .noFrame)
  else
    match Codec.decodeFrame s.params (Config.freeMode s.draws) (Config.freeFan s.draws) s.buf with
    | .error e => .next (s.report e.event)
    | .ok c => .next (s.countDraw.reportDecoded c)

/-- DECODE (R150). -/
def execDecode (s : State) : Host.Outcome State Fault Refusal := s.decodeBuffer

/-- ENCODE `enc_in` (R170): no failure path, no state element read or written (R42, R180). It runs on
records that are not valid too (R183; log 13). -/
def execEncode (c : ClimateState) (s : State) : Host.Outcome State Fault Refusal :=
  .next (s.reportFrame (Codec.encodeFrame s.params c))

end Sys2Proof.Machine
end

