-- ==== Sys2Proof/Machine/Framer.lean ====
section
/-! DEFINITION. The Framer: FEED, RESTART, NOP, the reserved codes and the reset pin. -/

namespace Sys2Proof.Machine

/-! ### The phases of FEED (R110) -/

/-- The clear that RESTART left pending (R113). -/
def State.lazyClear (s : State) : State :=
  if s.fstate = .restart then { s with buf := [], fstate := .awaitingSync } else s

/-- The append (R112). -/
def State.appendByte (b : Byte) (s : State) : State := { s with buf := s.buf.append b }

/-- The state logic after `b` was appended: the header test while awaiting sync (R114, R115), the countdown and the
completion while receiving (R116, R117). The header's third byte X is the byte just appended. -/
def State.advance (b : Byte) (s : State) : State :=
  if s.fstate = .awaitingSync then
    if s.buf.endsInHeader then { s with buf := Memory.header b, frameSize := b, fstate := .receiving } else s
  else if s.frameSize - 1 = 0 then { s with frameSize := s.frameSize - 1, fstate := .complete }
  else { s with frameSize := s.frameSize - 1 }

/-- The overflow test and its recovery, made last and suppressed by completion (R118). -/
def State.checkOverflow (s : State) : State :=
  if s.fstate ≠ .complete ∧ s.params.dataMax ≤ s.len then s.recover.report .framingOverflow else s.report .none

/-- FEED of one byte (R110): not accepted in Complete (R111); otherwise clear, append, state logic, overflow. -/
def State.feedByte (b : Byte) (s : State) : Host.Outcome State Fault Refusal :=
  if s.fstate = .complete then .next (s.report .feedNotAccepted)
  else if s.params.dataMax ≤ s.lazyClear.len then .fault .appendOutsideBuffer
  else .next ((s.lazyClear.appendByte b).advance b).checkOverflow

/-! ### The instructions -/

/-- NOP: no state element changes (R121). -/
def execNop (s : State) : Host.Outcome State Fault Refusal := .next (s.report .none)

/-- FEED `rx_data` (R110). -/
def execFeed (b : Byte) (s : State) : Host.Outcome State Fault Refusal := s.feedByte b

/-- RESTART: accepted in every state; the buffer keeps its bytes until the next FEED (R120). -/
def execRestart (s : State) : Host.Outcome State Fault Refusal := .next (s.release.report .none)

/-- Reserved code 5: the hardware changes no state and returns None, as NOP does (R72, log 3). -/
def execReservedOp5 (s : State) : Host.Outcome State Fault Refusal := .next (s.report .none)

/-- Reserved code 6: the hardware changes no state and returns None, as NOP does (R72, log 3). -/
def execReservedOp6 (s : State) : Host.Outcome State Fault Refusal := .next (s.report .none)

/-- Reserved code 7: the hardware changes no state and returns None, as NOP does (R72, log 3). -/
def execReservedOp7 (s : State) : Host.Outcome State Fault Refusal := .next (s.report .none)

/-- A cycle with `rst` = 1: the Framer's elements take their reset values, `ev` = None, `tx_valid` = 0 (R44). -/
def execReset (s : State) : Host.Outcome State Fault Refusal := .next (s.clearFramer.report .none)

end Sys2Proof.Machine
end

