-- ==== Sys2Proof/Machine/Frames.lean ====
section
/-! DEFINITION. A frame on the line: the host's reference receive loop takes it in, one operation per cycle (R94, R240; log 11).
The pseudo-operations of the notation (R94) are here too. -/

namespace Sys2Proof.Machine

/-- The pins of a RESTART cycle. -/
def restartPins : PortsIn := { PortsIn.idle with op := 2 }

/-- `FEEDS b0 b1 … bk`: one FEED a byte, in order (R94). -/
def feeds (bytes : List Byte) : List Stimulus :=
  bytes.map fun b => .cycle { PortsIn.idle with op := 1, rxData := b }

/-- `READ i`: a NOP cycle with `rd_idx` = i (R94). -/
def readAt (i : Nat) : Stimulus := .cycle { PortsIn.idle with rdIdx := i }

/-- `STATE`: a NOP cycle, in which the host samples `fstate` and `len` (R94). -/
def sampleState : Stimulus := .cycle PortsIn.idle

/-- `POLL b0 … bk`: the bytes in the transport, drained by the reference loop (R94, R240). -/
def poll (bytes : List Byte) : Stimulus := .line bytes

/-- One cycle of the reference loop with `bytes` in the transport (R240): if a frame is complete, DECODE it now and RESTART
in the next cycle; else FEED the next byte. What remains goes back before the host's other stimuli. -/
def State.pollBytes (bytes : List Byte) (s : State) : Host.Outcome State Fault Refusal :=
  if s.fstate = .complete then (s.pushPending [.cycle restartPins, .line bytes]).decodeBuffer
  else
    match bytes with
    | [] => .next (s.report .none)
    | b :: rest => (s.pushPending [.line rest]).feedByte b

/-- A parameter-set frame on the line. The loop takes it in as any frame (R76, R242). -/
def execFrameSet (f : RawFrame) (s : State) : Host.Outcome State Fault Refusal := s.pollBytes f.bytes

/-- A unit report on the line: the loop takes it in, and DECODE gives its ClimateState (R149, R240). -/
def execFrameReport (f : RawFrame) (s : State) : Host.Outcome State Fault Refusal := s.pollBytes f.bytes

/-- Any other frame on the line: DECODE treats all alike (R75, R76). -/
def execFrameAny (f : RawFrame) (s : State) : Host.Outcome State Fault Refusal := s.pollBytes f.bytes

end Sys2Proof.Machine
end

