-- ==== Sys2Proof/Machine/Dispatch.lean ====
section
/-! DEFINITION. One arm per instruction. -/

namespace Sys2Proof.Machine

def exec (i : Instr) (s : State) : Host.Outcome State Fault Refusal :=
  match i with
  | .nop => Sys2Proof.Machine.execNop s
  | .feed b => Sys2Proof.Machine.execFeed b s
  | .restart => Sys2Proof.Machine.execRestart s
  | .decode => Sys2Proof.Machine.execDecode s
  | .encode c => Sys2Proof.Machine.execEncode c s
  | .reservedOp5 => Sys2Proof.Machine.execReservedOp5 s
  | .reservedOp6 => Sys2Proof.Machine.execReservedOp6 s
  | .reservedOp7 => Sys2Proof.Machine.execReservedOp7 s
  | .reset => Sys2Proof.Machine.execReset s
  | .frameSet f => Sys2Proof.Machine.execFrameSet f s
  | .frameReport f => Sys2Proof.Machine.execFrameReport f s
  | .frameAny f => Sys2Proof.Machine.execFrameAny f s

end Sys2Proof.Machine
end

