-- ==== Sys2Proof/Machine/Fetch.lean ====
section
/-! DEFINITION. Which operation the host issues in the next cycle. The block has no program counter and no instruction
memory; the host chooses (R5, R25; log 12). -/

namespace Sys2Proof.Machine

/-- What the next cycle performs: its instruction, the index on the read port, and the stimuli left in store. -/
structure Fetched where
  instr : Instr
  rdIdx : Nat
  rest : List Stimulus
  deriving DecidableEq, Repr

/-- The next cycle. An empty store is a host that calls nothing (R121). Bytes on the line that begin a whole frame are that
frame's instruction; other bytes go through the reference loop one by one (R240), and a drained line with a complete
frame left is decoded and released. -/
def fetchFrom (p : Params) (complete : Bool) : List Stimulus → Fetched
  | [] => ⟨.nop, 0, []⟩
  | .cycle w :: rest => ⟨decodeCycle w, (w.rdPort p).toNat, rest⟩
  | .line bs :: rest =>
    match decodeFrame p.cmdReport bs with
    | .ok (i, left) => ⟨i, 0, .line left :: rest⟩
    | .error _ =>
      if complete then ⟨.decode, 0, .cycle restartPins :: .line bs :: rest⟩
      else
        match bs with
        | [] => fetchFrom p complete rest
        | b :: bs' => ⟨.feed b, 0, .line bs' :: rest⟩

/-- The next cycle of this state. -/
def State.fetch (s : State) : Fetched := fetchFrom s.params s.frameValid s.pending

/-- The cycle begins: its stimulus leaves the store, and the read port shows `buf[rd_idx]` of the pre-state, if
`rd_idx < len` (R41). -/
def State.beginCycle (f : Fetched) (s : State) : State :=
  { s with pending := f.rest, out := { s.out with rdData := s.buf.read f.rdIdx } }

/-- The stimulus of the table's word, put where the next cycle takes it from; a word the table does not number leaves the
store as it is. -/
def State.storeWord (nbits w : Nat) (s : State) : State :=
  match tableStimulus nbits w with
  | some x => s.pushPending [x]
  | none => s

end Sys2Proof.Machine
end

