-- ==== Sys2Proof/Machine/Step.lean ====
section
/-! DEFINITION. One step is one clock cycle (R40, R243; log 15). -/

namespace Sys2Proof.Machine

/-- One clock cycle: the host's next operation, performed on the pre-state (R5, R40). -/
def step (s : State) : Host.Outcome State Fault Refusal := exec s.fetch.instr (s.beginCycle s.fetch)

/-- `s` with the table's word as the host's next stimulus. -/
def State.withFetchWord (s : State) (nbits w : Nat) : State := s.storeWord nbits w

end Sys2Proof.Machine
end

