-- ==== Sys2Proof/Safety.lean ====
section
/-! DEFINITION. The terms claims are stated in: a run of several cycles, the block's own state elements, the invariants of
every reachable state (R45) and the host contract (R232). The machine itself runs outside the contract too; the contract is a premise of claims only. -/

namespace Sys2Proof.Machine

/-- `k` cycles (R5, R243). -/
def run (k : Nat) (s : State) : Host.Outcome State Fault Refusal := Host.Core.run Sys2Proof.core k s

/-- The four state elements of the block are the same in both (R20); `len` is the length of `buf`. -/
def State.SameFramer (s t : State) : Prop := t.fstate = s.fstate ∧ t.buf = s.buf ∧ t.frameSize = s.frameSize

/-! ### The invariants of R45 -/

/-- The buffer contains no header (R45, R114). -/
def Memory.NoHeader (m : Memory) : Prop :=
  ∀ i, 2 ≤ i → i < m.length →
    ¬ (m.read (i - 2) = some sync ∧ m.read (i - 1) = some sync ∧ m.read i ≠ some sync)

/-- How many bytes follow a header with third byte `x`: X of them, or 256 for X = 0 (R117, R125). -/
def declaredCount (x : Byte) : Nat := if x = 0 then 256 else x.toNat

/-- The shape of R45 for AwaitingSync. -/
def State.Scanning (s : State) : Prop := s.len < s.params.dataMax ∧ s.buf.NoHeader

/-- The shape of R45 for Receiving: a header with third byte `x` and fewer bytes after it than it declares, counted down in
`frame_size`. The bound on the bytes, which R45 does not spell out (log 17), makes the invariant inductive for every `DATA_MAX`; it
implies `frame_size != 0` once a byte has followed the header. -/
def State.Collecting (s : State) : Prop :=
  ∃ x body, s.buf = Memory.header x ++ body ∧ x ≠ sync ∧ s.len < s.params.dataMax
    ∧ body.length < declaredCount x ∧ s.frameSize = x - BitVec.ofNat 8 body.length

/-- The shape of R45 for Complete: a whole frame (R131). -/
def State.Whole (s : State) : Prop :=
  ∃ x body, s.buf = Memory.header x ++ body ∧ x ≠ sync ∧ s.len ≤ s.params.dataMax
    ∧ body.length = declaredCount x ∧ s.frameSize = 0

/-- The invariants of every reachable state (R45). -/
def State.Inv (s : State) : Prop :=
  match s.fstate with
  | .awaitingSync => s.Scanning
  | .receiving => s.Collecting
  | .complete => s.Whole
  | .restart => s.Scanning ∨ s.Collecting ∨ s.Whole

/-! ### The host contract -/

/-- The operations a well-behaved host issues in a state (R232): FEED only when ready, DECODE only with a complete frame,
ENCODE only valid records, no reserved code. The reference loop that takes in a frame is well-behaved (R240). -/
def inContract (s : State) : Instr → Bool
  | .feed _ => s.feedReady
  | .decode => s.frameValid
  | .encode c => c.valid s.params
  | .reservedOp5 | .reservedOp6 | .reservedOp7 => false
  | .nop | .restart | .reset | .frameSet _ | .frameReport _ | .frameAny _ => true

/-- The reads a host may make: below `len` (R41). -/
def readInContract (s : State) (i : Nat) : Bool := decide (i < s.len)

end Sys2Proof.Machine
end

