-- ==== Sys2Proof/Certificates/Slice0/Obligations.lean ====
section
/-! DEFINITION. The statements for the provers. Each docstring names the rules of spec/ it formalises. -/

open Sys2Proof Sys2Proof.Machine

/-! ### Reset, NOP, reserved codes, RESTART -/

/-- R230, R44: the state after reset. -/
def Obligations.ResetHoldsSpecValues : Prop :=
  State.reset.fstate = .awaitingSync ∧ State.reset.buf = [] ∧ State.reset.len = 0 ∧ State.reset.frameSize = 0
    ∧ State.reset.frameValid = false ∧ State.reset.feedReady = true ∧ State.reset.fstate.portCode = 0

/-- R44: a cycle with `rst` = 1, whatever the other pins, clears the Framer, performs no operation, and returns None. -/
def Obligations.ResetPinOverridesOperation : Prop :=
  ∀ (s : State) (w : PortsIn) (rest : List Stimulus), s.pending = .cycle w :: rest → w.rst = true →
    ∃ t, step s = .next t ∧ t.fstate = .awaitingSync ∧ t.buf = [] ∧ t.len = 0 ∧ t.frameSize = 0
      ∧ t.frameValid = false ∧ t.feedReady = true ∧ t.out.ev = .none ∧ t.txValid = false ∧ t.out.decOut = none
      ∧ t.params = s.params ∧ t.draws = s.draws ∧ t.pending = rest

/-- R44: RESET as an instruction: its result, and everything it leaves alone. -/
def Obligations.ResetClearsFramer : Prop :=
  ∀ s : State, exec .reset s
    = .next { s with fstate := .awaitingSync, buf := [], frameSize := 0, out := ⟨.none, none, none, s.out.rdData⟩ }

/-- R121: NOP changes no state element and returns None. -/
def Obligations.NopChangesNothing : Prop :=
  ∀ s : State, exec .nop s = .next { s with out := ⟨.none, none, none, s.out.rdData⟩ }

/-- R72, first sentence: what the hardware does with the three reserved codes. That the model runs them rather than refuse
them is the model's choice (log 3). -/
def Obligations.ReservedCodesActAsNop : Prop :=
  ∀ s : State, exec .reservedOp5 s = exec .nop s ∧ exec .reservedOp6 s = exec .nop s ∧ exec .reservedOp7 s = exec .nop s
    ∧ exec .nop s = .next { s with out := ⟨.none, none, none, s.out.rdData⟩ }

/-- R120: RESTART, accepted in every state, sets `fstate` and nothing else. -/
def Obligations.RestartOnlySetsRestart : Prop :=
  ∀ s : State, exec .restart s = .next { s with fstate := .restart, out := ⟨.none, none, none, s.out.rdData⟩ }

/-! ### FEED -/

/-- R111: FEED in Complete changes no state element and returns FeedNotAccepted. -/
def Obligations.FeedRefusedInComplete : Prop :=
  ∀ (s : State) (b : Byte), s.fstate = .complete →
    exec (.feed b) s = .next { s with out := ⟨.feedNotAccepted, none, none, s.out.rdData⟩ }

/-- R113, R122 (the Restart row): a FEED in Restart lands in AwaitingSync with that one byte. -/
def Obligations.FeedAfterRestartStartsAnew : Prop :=
  ∀ (s : State) (b : Byte), s.fstate = .restart →
    exec (.feed b) s
        = .next { s with fstate := .awaitingSync, buf := [b], out := ⟨.none, none, none, s.out.rdData⟩ }
      ∧ exec (.feed b) s = exec (.feed b) { s with fstate := .awaitingSync, buf := [] }

/-- R112, R114, R115, R118, R122 (the AwaitingSync rows): header found, overflow, or append. -/
def Obligations.FeedWhileScanning : Prop :=
  ∀ (s : State) (b : Byte), s.fstate = .awaitingSync → s.buf.length < s.params.dataMax →
    let header := 2 ≤ s.buf.length ∧ s.buf[s.buf.length - 2]? = some 0x7E ∧ s.buf[s.buf.length - 1]? = some 0x7E
      ∧ b ≠ 0x7E
    (header → exec (.feed b) s
        = .next { s with fstate := .receiving, buf := [0x7E, 0x7E, b], frameSize := b,
                         out := ⟨.none, none, none, s.out.rdData⟩ })
      ∧ (¬ header → s.buf.length + 1 < s.params.dataMax → exec (.feed b) s
        = .next { s with buf := s.buf ++ [b], out := ⟨.none, none, none, s.out.rdData⟩ })
      ∧ (¬ header → s.buf.length + 1 = s.params.dataMax → exec (.feed b) s
        = .next { s with buf := [], out := ⟨.framingOverflow, none, none, s.out.rdData⟩ })

/-- R116, R117, R118, R122 (the Receiving rows): completion, overflow, or countdown. -/
def Obligations.FeedWhileReceiving : Prop :=
  ∀ (s : State) (b : Byte), s.fstate = .receiving → s.buf.length < s.params.dataMax →
    (s.frameSize = 1 → exec (.feed b) s
        = .next { s with fstate := .complete, buf := s.buf ++ [b], frameSize := 0,
                         out := ⟨.none, none, none, s.out.rdData⟩ })
      ∧ (s.frameSize ≠ 1 → s.buf.length + 1 < s.params.dataMax → exec (.feed b) s
        = .next { s with buf := s.buf ++ [b], frameSize := s.frameSize - 1,
                         out := ⟨.none, none, none, s.out.rdData⟩ })
      ∧ (s.frameSize ≠ 1 → s.buf.length + 1 = s.params.dataMax → exec (.feed b) s
        = .next { s with fstate := .awaitingSync, buf := [], frameSize := s.frameSize - 1,
                         out := ⟨.framingOverflow, none, none, s.out.rdData⟩ })

/-- R22: `buf` has `DATA_MAX` bytes, so a FEED that would append above them stops by name, and so does the first FEED of a
FRAME row. No reachable state is one (InvariantStateNeverStops). The fault's name is the model's choice (log 10). -/
def Obligations.FeedOnFullBufferStops : Prop :=
  ∀ s : State, s.fstate = .awaitingSync ∨ s.fstate = .receiving → s.params.dataMax ≤ s.buf.length →
    (∀ b, exec (.feed b) s = .fault .appendOutsideBuffer)
      ∧ ∀ f, exec (.frameSet f) s = .fault .appendOutsideBuffer ∧ exec (.frameReport f) s = .fault .appendOutsideBuffer
        ∧ exec (.frameAny f) s = .fault .appendOutsideBuffer

/-- R122, last paragraph, over every instruction: Complete is entered only by feeding a byte in Receiving and left only by
RESTART and RESET; Restart is entered only by RESTART. -/
def Obligations.CompleteAndRestartTransitions : Prop :=
  ∀ (i : Instr) (s t : State), exec i s = .next t →
    (t.fstate = .complete → s.fstate ≠ .complete → s.fstate = .receiving
        ∧ ((∃ b, i = .feed b) ∨ ∃ f, i = .frameSet f ∨ i = .frameReport f ∨ i = .frameAny f))
      ∧ (s.fstate = .complete → t.fstate ≠ .complete → i = .restart ∨ i = .reset)
      ∧ (t.fstate = .restart → s.fstate ≠ .restart → i = .restart)

/-- R42, R61: DECODE, ENCODE, NOP and the reserved codes write no state element of the block. -/
def Obligations.CodecAndNopKeepFramer : Prop :=
  ∀ (i : Instr) (s t : State), exec i s = .next t →
    (i = .nop ∨ i = .decode ∨ (∃ c, i = .encode c) ∨ i = .reservedOp5 ∨ i = .reservedOp6 ∨ i = .reservedOp7) →
    s.SameFramer t ∧ t.params = s.params ∧ t.pending = s.pending ∧ (i ≠ .decode → t.draws = s.draws)

/-- R59, R234: a Complete buffer keeps every byte under every instruction but RESET, and so does the buffer of Restart until
the next FEED or RESET. -/
def Obligations.HandshakeKeepsBuffer : Prop :=
  ∀ (i : Instr) (s t : State), exec i s = .next t →
    (s.fstate = .complete → i ≠ .reset → t.buf = s.buf ∧ t.frameSize = s.frameSize)
      ∧ (s.fstate = .restart → i ≠ .reset → (∀ b, i ≠ .feed b)
          → (∀ f, i ≠ .frameSet f ∧ i ≠ .frameReport f ∧ i ≠ .frameAny f)
          → t.buf = s.buf ∧ t.frameSize = s.frameSize)

/-- R123: in Complete the Framer makes no progress, whatever bytes the host feeds; each is answered FeedNotAccepted. -/
def Obligations.CompleteStallsUnderFeeds : Prop :=
  ∀ (s : State) (bs : List Byte) (rest : List Stimulus), s.fstate = .complete → s.pending = feeds bs ++ rest →
    ∃ t, run bs.length s = .next t ∧ s.SameFramer t ∧ t.pending = rest ∧ (bs ≠ [] → t.out.ev = .feedNotAccepted)

/-! ### Streams of bytes -/

/-- R124: resynchronisation in its exact form. `n` is the number of bytes buffered before (0 in Restart); the garbage `g`
finds no header (i), and no overflow clear falls on a sync byte of the header (ii). -/
def Obligations.ResynchronizesOnHeader : Prop :=
  ∀ (s : State) (n : Nat) (g body : List Byte) (x : Byte) (rest : List Stimulus),
    (s.fstate = .awaitingSync ∧ n = s.buf.length ∧ n < s.params.dataMax) ∨ (s.fstate = .restart ∧ n = 0) →
    s.pending = feeds (g ++ [0x7E, 0x7E, x] ++ body) ++ rest →
    x ≠ 0x7E → x ≠ 0 → body.length = x.toNat → 3 + x.toNat ≤ s.params.dataMax →
    (∀ k u, k ≤ g.length → run k s = .next u → u.fstate ≠ .receiving) →
    (n + g.length + 1) % s.params.dataMax ≠ 0 → (n + g.length + 2) % s.params.dataMax ≠ 0 →
    (∃ t, run (g.length + 3) s = .next t ∧ t.fstate = .receiving ∧ t.buf = [0x7E, 0x7E, x] ∧ t.frameSize = x)
      ∧ ∃ t, run (g.length + 3 + body.length) s = .next t ∧ t.fstate = .complete
          ∧ t.buf = [0x7E, 0x7E, x] ++ body ∧ t.frameSize = 0 ∧ t.pending = rest

/-- R124, last part: while no header is found, `len` after the bytes `bs` is `(n + |bs|) mod DATA_MAX`. -/
def Obligations.LenCountsModuloDataMax : Prop :=
  ∀ (s : State) (n : Nat) (bs : List Byte) (rest : List Stimulus),
    (s.fstate = .awaitingSync ∧ n = s.buf.length ∧ n < s.params.dataMax) ∨ (s.fstate = .restart ∧ n = 0 ∧ bs ≠ []) →
    s.pending = feeds bs ++ rest →
    (∀ k u, k ≤ bs.length → run k s = .next u → u.fstate ≠ .receiving) →
    ∃ t, run bs.length s = .next t ∧ t.fstate = .awaitingSync ∧ t.len = (n + bs.length) % s.params.dataMax

/-- R130: among `DATA_MAX` consecutive accepted FEEDs one ends in Complete, or finds a header, or clears the buffer with
FramingOverflow. -/
def Obligations.DataMaxFeedsMakeProgress : Prop :=
  ∀ (s : State) (bs : List Byte) (rest : List Stimulus),
    s.Inv → s.fstate ≠ .complete → s.pending = feeds bs ++ rest → bs.length = s.params.dataMax →
    ∃ k t u, k < bs.length ∧ run k s = .next t ∧ step t = .next u
      ∧ (u.fstate = .complete ∨ (t.fstate ≠ .receiving ∧ u.fstate = .receiving)
        ∨ (u.out.ev = .framingOverflow ∧ u.fstate = .awaitingSync ∧ u.buf = []))

/-- R130, last part: `DATA_MAX` bytes without a header, fed to an empty AwaitingSync buffer, end in an empty AwaitingSync
buffer at the last of them, with FramingOverflow. -/
def Obligations.HeaderlessBytesOverflow : Prop :=
  ∀ (s : State) (bs : List Byte) (rest : List Stimulus),
    s.fstate = .awaitingSync → s.buf = [] → s.pending = feeds bs ++ rest → bs.length = s.params.dataMax →
    Memory.NoHeader bs →
    ∃ t, run bs.length s = .next t ∧ t.fstate = .awaitingSync ∧ t.buf = [] ∧ t.out.ev = .framingOverflow
      ∧ t.frameSize = s.frameSize ∧ t.pending = rest

/-- R125: a header with length byte 0 counts 256 further bytes: it overflows when `DATA_MAX <= 258` and completes with 259
bytes otherwise. -/
def Obligations.ZeroLengthHeaderCounts256 : Prop :=
  ∀ (s : State) (bs : List Byte) (rest : List Stimulus),
    s.fstate = .receiving → s.buf = [0x7E, 0x7E, 0x00] → s.frameSize = 0 → s.pending = feeds bs ++ rest →
    (s.params.dataMax ≤ 258 → bs.length = s.params.dataMax - 3 →
      ∃ t, run bs.length s = .next t ∧ t.fstate = .awaitingSync ∧ t.buf = [] ∧ t.out.ev = .framingOverflow)
    ∧ (259 ≤ s.params.dataMax → bs.length = 256 →
      ∃ t, run bs.length s = .next t ∧ t.fstate = .complete ∧ t.buf = [0x7E, 0x7E, 0x00] ++ bs ∧ t.len = 259
        ∧ t.frameSize = 0)

/-- R118, consequence: a header whose frame the buffer cannot hold always ends in overflow at the FEED that makes
`len = DATA_MAX`. -/
def Obligations.OversizeFrameOverflows : Prop :=
  ∀ (s : State) (x : Byte) (bs : List Byte) (rest : List Stimulus),
    s.fstate = .receiving → s.buf = [0x7E, 0x7E, x] → s.frameSize = x → x ≠ 0 → s.params.dataMax < 3 + x.toNat →
    s.pending = feeds bs ++ rest → bs.length = s.params.dataMax - 3 →
    ∃ t, run bs.length s = .next t ∧ t.fstate = .awaitingSync ∧ t.buf = [] ∧ t.out.ev = .framingOverflow
      ∧ t.frameSize = x - BitVec.ofNat 8 bs.length

/-! ### Invariants -/

/-- R45 at reset. -/
def Obligations.ResetMeetsInvariant : Prop := State.reset.Inv

/-- R45: every step keeps the invariants, whatever the host does. -/
def Obligations.StepKeepsInvariant : Prop := ∀ s t : State, s.Inv → step s = .next t → t.Inv

/-- R56, R90: a state that meets the invariants never stops: no append falls outside the buffer, and nothing traps. -/
def Obligations.InvariantStateNeverStops : Prop := ∀ s : State, s.Inv → ∃ t, step s = .next t

/-- R45: the invariant gives the clauses of the rule, state by state. -/
def Obligations.InvariantGivesSpecClauses : Prop :=
  ∀ s : State, s.Inv →
    s.len ≤ s.params.dataMax
      ∧ (s.fstate = .awaitingSync → s.len < s.params.dataMax ∧ s.buf.NoHeader)
      ∧ (s.fstate = .receiving → 3 ≤ s.len ∧ s.len < s.params.dataMax
          ∧ s.buf[0]? = some 0x7E ∧ s.buf[1]? = some 0x7E
          ∧ ∃ x, s.buf[2]? = some x ∧ x ≠ 0x7E ∧ s.frameSize = x - BitVec.ofNat 8 (s.len - 3)
              ∧ (3 < s.len → s.frameSize ≠ 0))
      ∧ (s.fstate = .complete → s.frameSize = 0 ∧ 4 ≤ s.len ∧ s.buf[0]? = some 0x7E ∧ s.buf[1]? = some 0x7E
          ∧ ∃ x, s.buf[2]? = some x ∧ x ≠ 0x7E ∧ (x ≠ 0 → s.len = 3 + x.toNat) ∧ (x = 0 → s.len = 259))

/-- R60, R7: no step changes a parameter of the instance. -/
def Obligations.StepKeepsParameters : Prop := ∀ s t : State, step s = .next t → t.params = s.params

/-! ### The Codec: DECODE -/

/-- R140: the checksum is the sum of the bytes at indices 2 to N-2, mod 256. -/
def Obligations.ChecksumIsModularSum : Prop :=
  ∀ frame : List Byte, 4 ≤ frame.length →
    (Codec.cks frame).toNat = (∑ i ∈ Finset.Ico 2 (frame.length - 1), (frame.getD i 0).toNat) % 256

/-- R150, R204: DECODE without a Complete frame returns NoFrame and no record. -/
def Obligations.DecodeWithoutFrame : Prop :=
  ∀ s : State, s.fstate ≠ .complete →
    exec .decode s = .next { s with out := ⟨.noFrame, none, none, s.out.rdData⟩ }

/-- R141, R202, R205: a Complete frame below `MIN_FRAME_SIZE` is UnderlengthFrame, whatever its checksum. -/
def Obligations.DecodeRejectsShortFrame : Prop :=
  ∀ s : State, s.fstate = .complete → s.buf.length < s.params.minFrameSize →
    exec .decode s = .next { s with out := ⟨.underlengthFrame, none, none, s.out.rdData⟩ }

/-- R142, R203: a frame long enough whose last byte is not its checksum is ChecksumMismatch. -/
def Obligations.DecodeRejectsBadChecksum : Prop :=
  ∀ (s : State) (b : Byte), s.fstate = .complete → s.params.minFrameSize ≤ s.buf.length →
    s.buf.getLast? = some b → b ≠ Codec.cks s.buf →
    exec .decode s = .next { s with out := ⟨.checksumMismatch, none, none, s.out.rdData⟩ }

/-- R143 to R150: DECODE of a frame that passes both checks returns None and the record of the frame's fields, in every
admissible instance. Where the mode or fan code is assigned to nothing, the result is one of the transmitted values, which
one is left open; the model draws it and counts the draw (log 2). -/
def Obligations.DecodeDeliversFields : Prop :=
  ∀ s : State, s.fstate = .complete → s.params.minFrameSize ≤ s.buf.length →
    s.buf.getLast? = some (Codec.cks s.buf) →
    ∃ c : ClimateState,
      exec .decode s = .next { s with draws := s.draws + 1, out := ⟨.none, some c, none, s.out.rdData⟩ }
        ∧ let r : Field → Nat := fun f => ((s.buf.getD (3 + f.off) 0).toNat >>> f.shift) &&& f.mask
          let t := s.params.layout
          (c.power = true ↔ r t.power = 1)
          ∧ (r t.power = 0 → c.mode = .off)
          ∧ (r t.power = 1 → (∀ m, t.modeCode.code m = r t.mode → c.mode = Codec.modeOfWire m)
              ∧ ∃ m, c.mode = Codec.modeOfWire m)
          ∧ (r t.turbo = 1 → c.fan = .turbo)
          ∧ (r t.turbo = 0 → (∀ v, t.fanCode.code v = r t.fanLevel → c.fan = Codec.fanOfWire v)
              ∧ ∃ v, c.fan = Codec.fanOfWire v)
          ∧ c.targetTemp = r t.tempSet - t.tempSet.noff ∧ c.currentTemp = r t.tempCur - t.tempCur.noff
          ∧ (c.swingV = .full ↔ r t.swingV = 1) ∧ (c.swingH = .full ↔ r t.swingH = 1)
          ∧ (c.plasma = true ↔ r t.plasma = 1) ∧ (c.beeper = true ↔ r t.beeper = 1)
          ∧ (c.sleep = true ↔ r t.sleep = 1) ∧ (c.xfan = true ↔ r t.xfan = 1) ∧ (c.save = true ↔ r t.save = 1)
          ∧ c.display = r t.display ∧ c.displayUnit = r t.displayUnit

/-- R145, R31: every decoded record has `power = (mode != Off)`, and none is HeatCool, for every draw of the open values. -/
def Obligations.DecodedPowerAgreesWithMode : Prop :=
  ∀ (p : Params) (m : WireMode) (v : WireFan) (frame : List Byte) (c : ClimateState),
    Codec.decodeFrame p m v frame = .ok c → c.power = decide (c.mode ≠ .off) ∧ c.mode ≠ .heatCool

/-- R151: two byte sequences of one length that agree from index 2 on decode alike. -/
def Obligations.DecodeIgnoresSyncBytes : Prop :=
  ∀ (p : Params) (m : WireMode) (v : WireFan) (f g : List Byte), f.length = g.length → f.drop 2 = g.drop 2 →
    Codec.decodeFrame p m v f = Codec.decodeFrame p m v g

/-- R152: any change of one byte at index 2 or above of a frame that passes is detected. -/
def Obligations.SingleByteChangeDetected : Prop :=
  ∀ (p : Params) (m m' : WireMode) (v v' : WireFan) (frame : List Byte) (c : ClimateState) (i : Nat) (b : Byte),
    Codec.decodeFrame p m v frame = .ok c → 2 ≤ i → i < frame.length → frame[i]? ≠ some b →
    Codec.decodeFrame p m' v' (frame.set i b) = .error .checksumMismatch

/-- R55, R149, R145, R146: a second DECODE of the same frame returns the same event, and a record that agrees with the first
in every field but the two that can be left open: in `mode` too where the power bit is 0 or the code is assigned, in `fan`
too where the turbo bit is 1 or the code is assigned. Where both are settled, all outputs are the same. -/
def Obligations.DecodeIsRepeatable : Prop :=
  ∀ s t : State, exec .decode s = .next t →
    let l := s.params.layout
    let settledMode := Codec.raw s.buf l.power = 0 ∨ ∃ m, l.modeCode.code m = Codec.raw s.buf l.mode
    let settledFan := Codec.raw s.buf l.turbo = 1 ∨ ∃ v, l.fanCode.code v = Codec.raw s.buf l.fanLevel
    ∃ u, exec .decode t = .next u ∧ u.out.ev = t.out.ev ∧ s.SameFramer u ∧ u.out.decOut.isSome = t.out.decOut.isSome
      ∧ (∀ c d, t.out.decOut = some c → u.out.decOut = some d →
          ({ d with mode := c.mode, fan := c.fan } : ClimateState) = c
            ∧ (settledMode → d.mode = c.mode) ∧ (settledFan → d.fan = c.fan))
      ∧ (settledMode → settledFan → u.out = t.out)

/-! ### The Codec: ENCODE -/

/-- R170, R179, R180: ENCODE answers, for every record and in every state, with None and its frame, and changes nothing. -/
def Obligations.EncodePresentsFrame : Prop :=
  ∀ (c : ClimateState) (s : State), ∃ frame,
    exec (.encode c) s = .next { s with out := ⟨.none, none, some frame, s.out.rdData⟩ }
      ∧ frame.length = s.params.encFrameSize ∧ frame = Codec.encodeFrame s.params c

/-- R171, R172, R178: sync bytes, length byte, command byte, and the checksum of the rest at the end. -/
def Obligations.EncodedFrameHeaderAndChecksum : Prop :=
  ∀ (p : Params) (c : ClimateState),
    (Codec.encodeFrame p c).length = p.encFrameSize
      ∧ (Codec.encodeFrame p c).take 4 = [0x7E, 0x7E, BitVec.ofNat 8 (p.encFrameSize - 3), 0x01]
      ∧ (Codec.encodeFrame p c).getLast? = some (Codec.cks (Codec.encodeFrame p c))

/-- R173 to R177, R183: the raw value ENCODE leaves in each of the 15 fields, for every record, valid or not. -/
def Obligations.EncodedFieldValues : Prop :=
  ∀ (p : Params) (c : ClimateState),
    let r : Field → Nat := Codec.raw (Codec.encodeFrame p c)
    let t := p.layout
    r t.power = c.power.toNat
      ∧ r t.mode = (match c.mode with
          | .auto => t.modeCode.auto | .cool => t.modeCode.cool | .dry => t.modeCode.dry
          | .fanOnly => t.modeCode.fanOnly | .heat => t.modeCode.heat | .off => 0 | .heatCool => 0)
      ∧ r t.tempSet = ((c.targetTemp + t.tempSet.noff) % 256).toNat &&& t.tempSet.mask
      ∧ r t.turbo = (if c.fan = .turbo then 1 else 0)
      ∧ r t.fanLevel = (match c.fan with
          | .auto => t.fanCode.auto | .low => t.fanCode.low | .medium => t.fanCode.medium
          | .high => t.fanCode.high | .turbo => t.fanCode.high)
      ∧ r t.swingV = (if c.swingV = .full then 1 else 0) ∧ r t.swingH = (if c.swingH = .full then 1 else 0)
      ∧ r t.plasma = c.plasma.toNat ∧ r t.beeper = c.beeper.toNat ∧ r t.sleep = c.sleep.toNat
      ∧ r t.xfan = c.xfan.toNat ∧ r t.save = c.save.toNat
      ∧ r t.display = c.display % 256 &&& t.display.mask ∧ r t.displayUnit = c.displayUnit % 256 &&& t.displayUnit.mask
      ∧ r t.tempCur = 0

/-- R91, R171: every bit between the command byte and the checksum byte that no written field claims is 0. -/
def Obligations.EncodedUnclaimedBitsAreZero : Prop :=
  ∀ (p : Params) (c : ClimateState) (i k : Nat), 4 ≤ i → i + 1 < p.encFrameSize →
    (∀ f : FieldName, (p.layout.field f).dir = .both → 3 + (p.layout.field f).off = i →
      ((p.layout.field f).mask <<< (p.layout.field f).shift).testBit k = false) →
    ((Codec.encodeFrame p c).getD i 0).toNat.testBit k = false

/-- R181: the round trip, in every admissible instance and for every draw of the open values. -/
def Obligations.DecodeOfEncodeRecoversState : Prop :=
  ∀ (p : Params) (m : WireMode) (v : WireFan) (c : ClimateState), c.valid p = true →
    Codec.decodeFrame p m v (Codec.encodeFrame p c) = .ok { c with currentTemp := -p.layout.tempCur.noff }

/-- R182: a frame ENCODE built, fed to an empty scanning Framer that can hold it, ends in Complete with exactly that frame. -/
def Obligations.EncodedFrameIsReceived : Prop :=
  ∀ (s : State) (c : ClimateState) (rest : List Stimulus),
    s.fstate = .awaitingSync → s.buf = [] → s.params.encFrameSize ≤ s.params.dataMax →
    s.pending = feeds (Codec.encodeFrame s.params c) ++ rest →
    ∃ t, run s.params.encFrameSize s = .next t ∧ t.fstate = .complete ∧ t.buf = Codec.encodeFrame s.params c
      ∧ t.frameSize = 0 ∧ t.out.ev = .none ∧ t.pending = rest

/-- R242, with the line taken in by the reference loop (R240; log 11): loopback. From Restart, or from AwaitingSync where no
clear falls on the two sync bytes, ENCODE a valid record, put the frame on the line of the same instance, and the loop's
DECODE returns the record, but for the current temperature. -/
def Obligations.LoopbackReturnsState : Prop :=
  ∀ (s : State) (c : ClimateState),
    (s.fstate = .awaitingSync ∧ s.buf.length + 2 < s.params.dataMax) ∨ s.fstate = .restart →
    s.params.encFrameSize ≤ s.params.dataMax → c.valid s.params = true →
    s.pending = [.line (Codec.encodeFrame s.params c)] →
    ∃ t, run (s.params.encFrameSize + 1) s = .next t ∧ t.out.ev = .none
      ∧ t.out.decOut = some { c with currentTemp := -s.params.layout.tempCur.noff }

/-- R61: ENCODE before or after NOP, FEED, RESTART or DECODE: the same final state but for the outputs of the last
cycle, the same result of the other operation, the same frame. -/
def Obligations.EncodeCommutes : Prop :=
  ∀ (c : ClimateState) (o : Instr) (s t : State),
    (o = .nop ∨ (∃ b, o = .feed b) ∨ o = .restart ∨ o = .decode) → exec o s = .next t →
    ∃ u v w, exec (.encode c) s = .next u ∧ exec o u = .next v ∧ exec (.encode c) t = .next w
      ∧ v.out = t.out ∧ w.out.txFrame = u.out.txFrame ∧ ({ v with out := w.out } : State) = w

/-- R239, R84 (d): the neutral record is transmitted as zero in every bit between the command byte and the checksum. -/
def Obligations.NeutralStateEncodesToZeros : Prop :=
  ∀ (p : Params) (i : Nat), 4 ≤ i → i + 1 < p.encFrameSize →
    (Codec.encodeFrame p (ClimateState.neutral p))[i]? = some 0

/-! ### Events, ports, the read port -/

/-- R119, R200: the result codes each operation can return. -/
def Obligations.EventsByOperation : Prop :=
  ∀ (i : Instr) (s t : State), exec i s = .next t →
    ((∃ b, i = .feed b) → t.out.ev = .none ∨ t.out.ev = .framingOverflow ∨ t.out.ev = .feedNotAccepted)
      ∧ (i = .decode → t.out.ev = .none ∨ t.out.ev = .underlengthFrame ∨ t.out.ev = .checksumMismatch
          ∨ t.out.ev = .noFrame)
      ∧ (i = .nop ∨ i = .restart ∨ (∃ c, i = .encode c) ∨ i = .reset ∨ i = .reservedOp5 ∨ i = .reservedOp6
          ∨ i = .reservedOp7 → t.out.ev = .none)
      ∧ (t.txValid = true ↔ ∃ c, i = .encode c)
      ∧ (t.out.decOut.isSome = true → t.out.ev = .none ∧ s.fstate = .complete)

/-- R207, R118: what an event changes. FramingOverflow clears the buffer and restarts scanning, and nothing else:
`frame_size` keeps its value, which in Receiving is the one the same FEED has decremented. The other four change no state
element. -/
def Obligations.EventsChangeOnlyTheirState : Prop :=
  ∀ (i : Instr) (s t : State), exec i s = .next t →
    (t.out.ev = .framingOverflow → t.buf = [] ∧ t.fstate = .awaitingSync
        ∧ (s.fstate ≠ .receiving → t.frameSize = s.frameSize) ∧ (s.fstate = .receiving → t.frameSize = s.frameSize - 1))
      ∧ (t.out.ev = .underlengthFrame ∨ t.out.ev = .checksumMismatch ∨ t.out.ev = .noFrame
          ∨ t.out.ev = .feedNotAccepted → s.SameFramer t)

/-- R41, R40: the read port shows `buf[rd_idx]` of the pre-state in the cycle of every operation, for the `LEN_W` bits the
port carries (a wider number stands for its low bits: log 16), and no byte at or above `len`, where the rule leaves the
value open (log 6). That a cycle with `rst` = 1 is no exception is log 20. -/
def Obligations.ReadPortShowsBuffer : Prop :=
  ∀ (s t : State) (w : PortsIn) (rest : List Stimulus), s.pending = .cycle w :: rest → step s = .next t →
    let i := w.rdIdx % 2 ^ s.lenWidth
    (∀ h : i < s.buf.length, t.out.rdData = some s.buf[i]) ∧ (s.buf.length ≤ i → t.out.rdData = none)

/-- R30, R21, R200: the codes on the ports. Every record that fits the ports (8-bit display codes: log 5) reads back from
them; the codes of Mode, Fan and Swing, with code 7 read as HeatCool and fan codes 5 to 7 as Auto; the codes of `fstate` and
of `ev`. -/
def Obligations.PortCodesRoundTrip : Prop :=
  (∀ c : ClimateState, c.portable = true → c.toPorts.toState = c)
    ∧ (Mode.off.portCode = 0 ∧ Mode.auto.portCode = 1 ∧ Mode.cool.portCode = 2 ∧ Mode.heat.portCode = 3
        ∧ Mode.fanOnly.portCode = 4 ∧ Mode.dry.portCode = 5 ∧ Mode.heatCool.portCode = 6 ∧ Mode.ofPort 7 = .heatCool)
    ∧ (Fan.auto.portCode = 0 ∧ Fan.low.portCode = 1 ∧ Fan.medium.portCode = 2 ∧ Fan.high.portCode = 3
        ∧ Fan.turbo.portCode = 4 ∧ Fan.ofPort 5 = .auto ∧ Fan.ofPort 6 = .auto ∧ Fan.ofPort 7 = .auto)
    ∧ (Swing.off.portBit = false ∧ Swing.full.portBit = true)
    ∧ (Fstate.awaitingSync.portCode = 0 ∧ Fstate.receiving.portCode = 1 ∧ Fstate.complete.portCode = 2
        ∧ Fstate.restart.portCode = 3)
    ∧ (Event.none.code = 0 ∧ Event.framingOverflow.code = 1 ∧ Event.underlengthFrame.code = 2
        ∧ Event.checksumMismatch.code = 3 ∧ Event.noFrame.code = 4 ∧ Event.feedNotAccepted.code = 5)

/-! ### Frames on the line -/

/-- R76, R94, R240 (a FRAME row runs as the reference loop: log 11): outside Complete it feeds its first sync byte and
leaves the rest on the line, and it completes in every such state with room for a byte. -/
def Obligations.FrameFeedsItsFirstByte : Prop :=
  ∀ (f : RawFrame) (s : State),
    (s.fstate = .restart ∨ (s.fstate = .awaitingSync ∨ s.fstate = .receiving) ∧ s.buf.length < s.params.dataMax) →
    ∃ t, exec (.feed 0x7E) { s with pending := .line (0x7E :: f.len :: f.cmd :: f.body) :: s.pending } = .next t
      ∧ exec (.frameSet f) s = .next t ∧ exec (.frameReport f) s = .next t ∧ exec (.frameAny f) s = .next t

/-- R240, R94 (log 11): a FRAME row in Complete first decodes the frame that waits, and a RESTART is the host's next
operation; no byte is fed. -/
def Obligations.FrameWaitsForCompleteFrame : Prop :=
  ∀ (f : RawFrame) (s : State), s.fstate = .complete →
    ∃ t, exec .decode { s with pending := encode .restart :: .line f.bytes :: s.pending } = .next t
      ∧ exec (.frameSet f) s = .next t ∧ exec (.frameReport f) s = .next t ∧ exec (.frameAny f) s = .next t
      ∧ s.SameFramer t

/-- R240 (the line as the reference loop: log 11): in Complete the loop's cycle is DECODE, whatever is on the line, and its
next cycle is RESTART; no byte is fed, and the bytes stay on the line in order. -/
def Obligations.LoopDecodesThenRestarts : Prop :=
  ∀ (s : State) (bs : List Byte) (rest : List Stimulus), s.fstate = .complete → s.pending = .line bs :: rest →
    ∃ (xs : List (List Byte)) (t u : State), xs.flatten = bs
      ∧ step s = exec .decode
          { s with pending := encode .restart :: (xs.map .line ++ rest), out := { s.out with rdData := s.buf[0]? } }
      ∧ step s = .next t
      ∧ step t = exec .restart
          { t with pending := xs.map .line ++ rest, out := { t.out with rdData := t.buf[0]? } }
      ∧ step t = .next u ∧ s.SameFramer t ∧ u.fstate = .restart ∧ u.buf = s.buf ∧ u.pending = xs.map .line ++ rest

/-- R240, R94 (the line as the reference loop, its cycles driving `rd_idx` 0: log 11): outside Complete the loop feeds the
next byte of the line and keeps the others, in order, whether or not the bytes begin a frame. -/
def Obligations.LoopFeedsNextByte : Prop :=
  ∀ (s : State) (b : Byte) (bs : List Byte) (rest : List Stimulus),
    s.fstate ≠ .complete → s.pending = .line (b :: bs) :: rest →
    ∃ xs : List (List Byte), xs.flatten = bs
      ∧ step s = exec (.feed b)
          { s with pending := xs.map .line ++ rest, out := { s.out with rdData := s.buf[0]? } }

/-- R149, R240, R117, R125 (the line as the reference loop: log 11): a whole frame of any kind, with any length byte but 7E,
on the line of a Framer that can hold it, in Restart or in AwaitingSync where no clear falls on the two sync bytes: after its
last byte the Framer is Complete with exactly that frame, the next cycle is its DECODE, and the one after releases it. A
frame with length byte 0 is one of 259 bytes (log 7). -/
def Obligations.FrameIsReceivedDecodedReleased : Prop :=
  ∀ (s : State) (f : RawFrame) (rest : List Stimulus),
    f.wellFormed = true → f.len ≠ 0x7E → f.bytes.length ≤ s.params.dataMax →
    (s.fstate = .awaitingSync ∧ s.buf.length + 2 < s.params.dataMax) ∨ s.fstate = .restart →
    s.pending = .line f.bytes :: rest →
    (∃ t, run f.bytes.length s = .next t ∧ t.fstate = .complete ∧ t.buf = f.bytes)
      ∧ (∃ t, run (f.bytes.length + 1) s = .next t ∧ t.fstate = .complete ∧ t.buf = f.bytes
          ∧ match Codec.decodeFrame s.params (Config.freeMode s.draws) (Config.freeFan s.draws) f.bytes with
            | .ok c => t.out.ev = .none ∧ t.out.decOut = some c
            | .error e => t.out.ev = e.event ∧ t.out.decOut = none)
      ∧ ∃ t, run (f.bytes.length + 2) s = .next t ∧ t.fstate = .restart ∧ t.buf = f.bytes

/-- R126 (the line as the reference loop: log 11): a frame with length byte 7E is not received: its length byte is one more
sync byte, and its command byte, if that is not 7E, is taken as the length. -/
def Obligations.LengthByte7EIsNoHeader : Prop :=
  ∀ (s : State) (f : RawFrame) (rest : List Stimulus),
    f.len = 0x7E → (s.fstate = .awaitingSync ∧ s.buf = []) ∨ s.fstate = .restart → s.pending = .line f.bytes :: rest →
    ∃ t, run 3 s = .next t ∧ t.fstate = .awaitingSync ∧ t.buf = [0x7E, 0x7E, 0x7E]
      ∧ (f.cmd ≠ 0x7E → ∃ u, run 4 s = .next u ∧ u.fstate = .receiving ∧ u.buf = [0x7E, 0x7E, f.cmd]
          ∧ u.frameSize = f.cmd)

/-! ### Fetch and encoding -/

/-- R5, R40, R71: a step runs the instruction its stimulus decodes to, with the stimulus taken from the store and the read
port sampled at the `LEN_W` bits of `rd_idx` (log 16; in a cycle with `rst` = 1 too: log 20). A line keeps the bytes after
its frame, and its cycle drives `rd_idx` 0 (log 11). An empty store is a NOP cycle with `rd_idx` 0 (R121; log 4). -/
def Obligations.StepRunsDecodedInstruction : Prop :=
  (∀ (s : State) (w : PortsIn) (i : Instr) (left : List Byte) (rest : List Stimulus),
    s.pending = .cycle w :: rest → decode s.params (.cycle w) = .ok (i, left) →
    step s = exec i { s with pending := rest, out := { s.out with rdData := s.buf[w.rdIdx % 2 ^ s.lenWidth]? } })
  ∧ (∀ (s : State) (bs left : List Byte) (i : Instr) (rest : List Stimulus),
    s.pending = .line bs :: rest → decode s.params (.line bs) = .ok (i, left) →
    step s = exec i { s with pending := .line left :: rest, out := { s.out with rdData := s.buf[0]? } })
  ∧ ∀ s : State, s.pending = [] → step s = exec .nop { s with out := { s.out with rdData := s.buf[0]? } }

/-- R71, R44, R205: the operation each `op` code selects, with its operand port, and `rst` over all of them. -/
def Obligations.OperationCodesDecode : Prop :=
  ∀ w : PortsIn,
    (w.rst = true → decodeCycle w = .reset)
      ∧ (w.rst = false →
          (w.op = 0b000 → decodeCycle w = .nop) ∧ (w.op = 0b001 → decodeCycle w = .feed w.rxData)
          ∧ (w.op = 0b010 → decodeCycle w = .restart) ∧ (w.op = 0b011 → decodeCycle w = .decode)
          ∧ (w.op = 0b100 → decodeCycle w = .encode w.encIn.toState)
          ∧ (w.op = 0b101 → decodeCycle w = .reservedOp5) ∧ (w.op = 0b110 → decodeCycle w = .reservedOp6)
          ∧ (w.op = 0b111 → decodeCycle w = .reservedOp7))

/-- R76, R95: words of the opcode table decode to their rows (RESET on its 1-bit port: log 8). ENCODE's operand port, which
the table gives no bits, is all zeros: the record of R30's codes 0. -/
def Obligations.TableWordsDecode : Prop :=
  decodeTableWord 8 0 = some .nop ∧ decodeTableWord 8 1 = some (.feed 0) ∧ decodeTableWord 8 2 = some .restart
    ∧ decodeTableWord 8 3 = some .decode
    ∧ decodeTableWord 8 4 = some (.encode ⟨false, .off, 0, 0, .auto, .off, .off, false, false, false, false, false, 0, 0⟩)
    ∧ decodeTableWord 8 5 = some .reservedOp5 ∧ decodeTableWord 8 6 = some .reservedOp6
    ∧ decodeTableWord 8 7 = some .reservedOp7
    ∧ decodeTableWord 1 1 = some .reset
    ∧ decodeTableWord 32 0x7E7E0101 = some (.frameSet ⟨1, 1, []⟩)
    ∧ decodeTableWord 32 0x7E7E0104 = some (.frameReport ⟨1, 4, []⟩)
    ∧ decodeTableWord 32 0x7E7E0100 = some (.frameAny ⟨1, 0, []⟩)

/-- R71, R73, R76: decoding the encoding of a well-formed instruction gives it back, in every admissible instance. Well-formed
means, for ENCODE, an operand with 8-bit display codes (log 5), and for a frame with length byte 0, 259 bytes (log 7). -/
def Obligations.DecodeInvertsEncode : Prop :=
  ∀ (p : Params) (i : Instr), i.wellFormed p = true → decode p (encode i) = .ok (i, [])

/-- R73, R74, R76: the other direction: bytes decode to a frame instruction only when they begin with exactly that
instruction's encoding, and the instruction is well-formed. A frame with length byte 0 is one of 259 bytes (log 7). -/
def Obligations.LineDecodesOnlyFrames : Prop :=
  ∀ (p : Params) (bs left : List Byte) (i : Instr), decode p (.line bs) = .ok (i, left) →
    i.wellFormed p = true ∧ ∃ f : RawFrame, (i = .frameSet f ∨ i = .frameReport f ∨ i = .frameAny f)
      ∧ bs = f.bytes ++ left ∧ encode i = .line f.bytes

/-- R9, R86, R87, R8, R23: the reference configuration (which reset is an instance of: log 1) with the 15 rows of
`LAYOUT_REF` and its two code maps, and the bounds of every instance. A row is offset, shift, mask, numeric offset, divisor,
direction. -/
def Obligations.ReferenceConfiguration : Prop :=
  (Params.ref.dataMax = 64 ∧ Params.ref.minFrameSize = 48 ∧ Params.ref.encFrameSize = 48 ∧ Params.ref.cmdReport = 0x04
      ∧ BitVec.ofNat 8 (Params.ref.encFrameSize - hdrLen) = (0x2D : Byte) ∧ Params.ref.lenWidth = 7
      ∧ State.reset.params = Params.ref)
    ∧ (let l := Params.ref.layout
      l.power = ⟨1, 7, 0x01, 0, 1, .both⟩ ∧ l.mode = ⟨1, 4, 0x07, 0, 1, .both⟩ ∧ l.fanLevel = ⟨1, 0, 0x03, 0, 1, .both⟩
      ∧ l.tempSet = ⟨2, 4, 0x0F, -16, 1, .both⟩ ∧ l.turbo = ⟨3, 0, 0x01, 0, 1, .both⟩
      ∧ l.plasma = ⟨3, 1, 0x01, 0, 1, .both⟩ ∧ l.beeper = ⟨3, 2, 0x01, 0, 1, .both⟩
      ∧ l.sleep = ⟨3, 3, 0x01, 0, 1, .both⟩ ∧ l.xfan = ⟨3, 4, 0x01, 0, 1, .both⟩ ∧ l.save = ⟨3, 5, 0x01, 0, 1, .both⟩
      ∧ l.swingV = ⟨4, 4, 0x01, 0, 1, .both⟩ ∧ l.swingH = ⟨4, 0, 0x01, 0, 1, .both⟩
      ∧ l.display = ⟨5, 0, 0x07, 0, 1, .both⟩ ∧ l.displayUnit = ⟨5, 3, 0x01, 0, 1, .both⟩
      ∧ l.tempCur = ⟨43, 0, 0xFF, 40, 2, .decodeOnly⟩
      ∧ l.modeCode.code .auto = 0 ∧ l.modeCode.code .cool = 1 ∧ l.modeCode.code .dry = 2 ∧ l.modeCode.code .fanOnly = 3
      ∧ l.modeCode.code .heat = 4
      ∧ l.fanCode.code .auto = 0 ∧ l.fanCode.code .low = 1 ∧ l.fanCode.code .medium = 2 ∧ l.fanCode.code .high = 3)
    ∧ ∀ p : Params, 4 ≤ p.dataMax ∧ 6 ≤ p.minFrameSize ∧ p.minFrameSize ≤ p.encFrameSize ∧ p.encFrameSize ≤ 258
      ∧ p.dataMax < 2 ^ p.lenWidth ∧ 2 ^ (p.lenWidth - 1) ≤ p.dataMax
end

