-- ==== Sys2Proof/Laws/Params.lean ====
section
/-! SUPPORT. What admissibility (R8) and well-formedness of `LAYOUT` (R84) give, one fact each. -/

namespace Sys2Proof

theorem FieldName.mem_all (f : FieldName) : f ∈ FieldName.all := by cases f <;> decide

theorem WireMode.mem_all (m : WireMode) : m ∈ WireMode.all := by cases m <;> decide

theorem WireFan.mem_all (v : WireFan) : v ∈ WireFan.all := by cases v <;> decide

namespace Params

variable (p : Params)

theorem four_le_dataMax : 4 ≤ p.dataMax := by
  have h := p.ok
  simp only [RawParams.admissible, Bool.and_eq_true, decide_eq_true_eq] at h
  exact h.1

/-- Every value of `len` fits `LEN_W` bits (R23). -/
theorem dataMax_lt : p.dataMax < 2 ^ p.lenWidth := Nat.lt_log2_self

/-- No narrower port would do (R23). -/
theorem lenWidth_tight : 2 ^ (p.lenWidth - 1) ≤ p.dataMax := by
  have h := p.four_le_dataMax
  exact Nat.log2_self_le (by omega)

theorem codec_ok : codecAdmissible p.layout p.minFrameSize p.encFrameSize p.cmdReport = true := by
  have h := p.ok
  simp only [RawParams.admissible, Bool.and_eq_true] at h
  exact h.2

theorem min_le_enc : p.minFrameSize ≤ p.encFrameSize := by
  have h := p.codec_ok
  simp only [codecAdmissible, Bool.and_eq_true, decide_eq_true_eq] at h
  exact h.1.1.1.2

theorem enc_le : p.encFrameSize ≤ 258 := by
  have h := p.codec_ok
  simp only [codecAdmissible, Bool.and_eq_true, decide_eq_true_eq] at h
  exact h.1.1.2

theorem enc_length_ne_sync : p.encFrameSize - hdrLen ≠ sync.toNat := by
  have h := p.codec_ok
  simp only [codecAdmissible, Bool.and_eq_true, decide_eq_true_eq] at h
  exact h.1.2

theorem cmdReport_ne_cmdSet : p.cmdReport ≠ cmdSet := by
  have h := p.codec_ok
  simp only [codecAdmissible, Bool.and_eq_true, decide_eq_true_eq] at h
  exact h.2

theorem layout_wellFormed : p.layout.wellFormed p.minFrameSize = true := by
  have h := p.codec_ok
  simp only [codecAdmissible, Bool.and_eq_true] at h
  exact h.1.1.1.1.1

theorem field_wellFormed (f : FieldName) : (p.layout.field f).wellFormed p.minFrameSize = true := by
  have h := p.layout_wellFormed
  simp only [Layout.wellFormed, Bool.and_eq_true, List.all_eq_true] at h
  exact h.1.1.1.1.1 f f.mem_all

theorem field_shift_le (f : FieldName) : (p.layout.field f).shift ≤ 7 := by
  have h := p.field_wellFormed f
  simp only [Field.wellFormed, Bool.and_eq_true, decide_eq_true_eq] at h
  exact h.1.1.1.1.1.1.1

theorem field_mask_mem (f : FieldName) : (p.layout.field f).mask ∈ [1, 3, 7, 15, 31, 63, 127, 255] := by
  have h := p.field_wellFormed f
  simp only [Field.wellFormed, Bool.and_eq_true] at h
  exact List.contains_iff_mem.mp h.1.1.1.1.1.1.2

theorem field_bits_le (f : FieldName) : (p.layout.field f).bits ≤ 0xFF := by
  have h := p.field_wellFormed f
  simp only [Field.wellFormed, Bool.and_eq_true, decide_eq_true_eq] at h
  exact h.1.1.1.1.1.2

theorem field_off_pos (f : FieldName) : 1 ≤ (p.layout.field f).off := by
  have h := p.field_wellFormed f
  simp only [Field.wellFormed, Bool.and_eq_true, decide_eq_true_eq] at h
  exact h.1.1.1.1.2

theorem field_off_le (f : FieldName) : (p.layout.field f).off + 5 ≤ p.minFrameSize := by
  have h := p.field_wellFormed f
  simp only [Field.wellFormed, Bool.and_eq_true, decide_eq_true_eq] at h
  exact h.1.1.1.2

theorem six_le_min : 6 ≤ p.minFrameSize := by
  have h1 := p.field_off_pos .power
  have h2 := p.field_off_le .power
  omega

theorem noOverlap {f g : FieldName} (hne : f ≠ g) (hoff : (p.layout.field f).off = (p.layout.field g).off) :
    (p.layout.field f).bits &&& (p.layout.field g).bits = 0 := by
  have h := p.layout_wellFormed
  simp only [Layout.wellFormed, Bool.and_eq_true] at h
  have h1 := h.1.1.1.1.2
  simp only [Layout.noOverlap, List.all_eq_true, Bool.or_eq_true, decide_eq_true_eq] at h1
  rcases h1 f f.mem_all g g.mem_all with (h2 | h2) | h2
  · exact absurd h2 hne
  · exact absurd hoff h2
  · exact h2

theorem flag_mask {f : FieldName} (hf : f.isFlag = true) : (p.layout.field f).mask = 1 := by
  have h := p.layout_wellFormed
  simp only [Layout.wellFormed, Bool.and_eq_true, List.all_eq_true] at h
  have h1 := h.1.1.2 f f.mem_all
  simpa [hf] using h1

theorem plain_noff {f : FieldName} (hf : f.isNumeric = false) : (p.layout.field f).noff = 0 := by
  have h := p.layout_wellFormed
  simp only [Layout.wellFormed, Bool.and_eq_true, List.all_eq_true] at h
  have h1 := h.1.2 f f.mem_all
  simp only [hf, Bool.false_or, Bool.and_eq_true, decide_eq_true_eq] at h1
  exact h1.1

theorem codes_ok : p.layout.codesFit = true := by
  have h := p.layout_wellFormed
  simp only [Layout.wellFormed, Bool.and_eq_true] at h
  exact h.1.1.1.2

theorem modeCode_le (m : WireMode) : p.layout.modeCode.code m ≤ p.layout.mode.mask := by
  have h := p.codes_ok
  simp only [Layout.codesFit, Bool.and_eq_true, List.all_eq_true, decide_eq_true_eq] at h
  exact (h.1.1.1.2 m m.mem_all).1

theorem fanCode_le (v : WireFan) : p.layout.fanCode.code v ≤ p.layout.fanLevel.mask := by
  have h := p.codes_ok
  simp only [Layout.codesFit, Bool.and_eq_true, List.all_eq_true, decide_eq_true_eq] at h
  exact (h.1.1.2 v v.mem_all).1

theorem modeCode_injective {m n : WireMode} (h : p.layout.modeCode.code m = p.layout.modeCode.code n) : m = n := by
  have h0 := p.codes_ok
  simp only [Layout.codesFit, Bool.and_eq_true, List.all_eq_true, Bool.or_eq_true, decide_eq_true_eq] at h0
  exact ((h0.1.1.1.2 m m.mem_all).2 n n.mem_all).resolve_right (fun hn => hn h)

theorem fanCode_injective {v w : WireFan} (h : p.layout.fanCode.code v = p.layout.fanCode.code w) : v = w := by
  have h0 := p.codes_ok
  simp only [Layout.codesFit, Bool.and_eq_true, List.all_eq_true, Bool.or_eq_true, decide_eq_true_eq] at h0
  exact ((h0.1.1.2 v v.mem_all).2 w w.mem_all).resolve_right (fun hn => hn h)

theorem modeCode_auto : p.layout.modeCode.code .auto = 0 := by
  have h := p.codes_ok
  simp only [Layout.codesFit, Bool.and_eq_true, decide_eq_true_eq] at h
  exact h.1.1.1.1.1

theorem fanCode_auto : p.layout.fanCode.code .auto = 0 := by
  have h := p.codes_ok
  simp only [Layout.codesFit, Bool.and_eq_true, decide_eq_true_eq] at h
  exact h.1.1.1.1.2

end Params

end Sys2Proof
end

