-- ==== Sys2Proof/Laws/Codec.lean ====
section
/-! SUPPORT. What the Codec's functions do, one fact each: lengths, extraction after insertion (R82), the blank frame
(R171, R172), the checksum byte (R178), and the checksum after a change of one byte (R140). -/

namespace Sys2Proof.Machine.Codec

/-! ### lo8, put, raw -/

theorem lo8_lt (v : Int) : lo8 v < 256 := (BitVec.ofInt 8 v).isLt

/-- A value 0..255 is its own low 8 bits (R10). -/
theorem lo8_of_nat {n : Nat} (h : n < 256) : lo8 (n : Int) = n := by
  simp [lo8]; omega

@[simp] theorem put_length (frame : List Byte) (f : Field) (v : Int) : (put frame f v).length = frame.length := by
  simp [put]

/-- `put` leaves every byte but the field's alone (R82). -/
theorem put_getElem?_of_ne (frame : List Byte) (f : Field) (v : Int) {i : Nat} (h : i ≠ fieldIndex f) :
    (put frame f v)[i]? = frame[i]? := by
  simp [put, Ne.symm h]

theorem fieldIndex_eq_iff (f g : Field) : fieldIndex f = fieldIndex g ↔ f.off = g.off := by
  simp [fieldIndex]

/-- The bits `put` writes lie inside the byte. -/
theorem put_bits_lt (f : Field) (hf : f.bits ≤ 0xFF) (v : Int) : (lo8 v &&& f.mask) <<< f.shift < 256 := by
  have h1 : lo8 v &&& f.mask ≤ f.mask := Nat.and_le_right
  have h2 : (lo8 v &&& f.mask) <<< f.shift ≤ f.mask <<< f.shift := by
    rw [Nat.shiftLeft_eq, Nat.shiftLeft_eq]; exact Nat.mul_le_mul_right _ h1
  have h3 : f.mask <<< f.shift ≤ 255 := hf
  omega

/-- The field's byte after `put`, as a number (R82). -/
theorem put_getD (frame : List Byte) (f : Field) (v : Int) (hf : f.bits ≤ 0xFF) (h : fieldIndex f < frame.length) :
    ((put frame f v).getD (fieldIndex f) 0).toNat
      = (frame.getD (fieldIndex f) 0).toNat ||| ((lo8 v &&& f.mask) <<< f.shift) := by
  have hb := put_bits_lt f hf v
  simp [put, List.getElem?_eq_getElem h, Nat.mod_eq_of_lt hb]

/-- Extraction of the field just written: the old bits or the written ones (R82). -/
theorem raw_put_same (frame : List Byte) (f : Field) (v : Int) (hf : f.bits ≤ 0xFF)
    (h : fieldIndex f < frame.length) : raw (put frame f v) f = raw frame f ||| (lo8 v &&& f.mask) := by
  rw [raw, put_getD frame f v hf h, Nat.shiftRight_or_distrib, Nat.and_or_distrib_right, Nat.shiftLeft_shiftRight,
    Nat.and_assoc, Nat.and_self, raw]

/-- Extraction of another field is not changed by `put`, when the two claim no common bit (R82, R84 (c)). -/
theorem raw_put_other (frame : List Byte) (f g : Field) (v : Int) (hf : f.bits ≤ 0xFF)
    (h : fieldIndex f < frame.length) (hd : f.off = g.off → f.bits &&& g.bits = 0) :
    raw (put frame f v) g = raw frame g := by
  by_cases ho : f.off = g.off
  · have hi : fieldIndex g = fieldIndex f := (fieldIndex_eq_iff g f).mpr ho.symm
    have hz : ((lo8 v &&& f.mask) <<< f.shift) >>> g.shift &&& g.mask = 0 := by
      apply Nat.eq_of_testBit_eq
      intro i
      have hc : (f.bits &&& g.bits).testBit (i + g.shift) = false := by rw [hd ho]; simp
      simp only [Field.bits, Nat.testBit_and, Nat.testBit_shiftLeft, Nat.testBit_shiftRight, Nat.zero_testBit] at hc ⊢
      have e1 : i + g.shift - g.shift = i := by omega
      have e2 : g.shift ≤ i + g.shift := by omega
      have e3 : g.shift + i = i + g.shift := by omega
      simp only [e1, e2, e3, ge_iff_le, decide_true, Bool.true_and] at hc ⊢
      revert hc
      generalize decide (f.shift ≤ i + g.shift) = x1
      generalize f.mask.testBit (i + g.shift - f.shift) = x2
      generalize (lo8 v).testBit (i + g.shift - f.shift) = x3
      generalize g.mask.testBit i = x4
      revert x1 x2 x3 x4
      decide
    rw [raw, hi, put_getD frame f v hf h, Nat.shiftRight_or_distrib, Nat.and_or_distrib_right, hz, Nat.or_zero, raw, hi]
  · have hi : fieldIndex g ≠ fieldIndex f := fun hc => ho ((fieldIndex_eq_iff g f).mp hc).symm
    simp only [raw, List.getD_eq_getElem?_getD, put_getElem?_of_ne frame f v hi]

/-- A raw value fits its mask (R81). -/
theorem raw_le (frame : List Byte) (f : Field) : raw frame f ≤ f.mask := Nat.and_le_right

/-! ### putAll -/

@[simp] theorem putAll_length (t : Layout) (ws : List (FieldName × Int)) (frame : List Byte) :
    (putAll t ws frame).length = frame.length := by
  induction ws generalizing frame with
  | nil => rfl
  | cons w ws ih => simp only [putAll, List.foldl_cons] at ih ⊢; rw [ih, put_length]

theorem putAll_cons (t : Layout) (w : FieldName × Int) (ws : List (FieldName × Int)) (frame : List Byte) :
    putAll t (w :: ws) frame = putAll t ws (put frame (t.field w.1) w.2) := rfl

/-- The bytes before the first field byte are not written (R84 (b)). -/
theorem putAll_getElem?_of_lt (p : Params) (ws : List (FieldName × Int)) (frame : List Byte) {i : Nat} (h : i < 4) :
    (putAll p.layout ws frame)[i]? = frame[i]? := by
  induction ws generalizing frame with
  | nil => rfl
  | cons w ws ih =>
    have hp := p.field_off_pos w.1
    have hi : i ≠ fieldIndex (p.layout.field w.1) := by simp only [fieldIndex, payloadBase]; omega
    rw [putAll_cons, ih, put_getElem?_of_ne _ _ _ hi]

/-- A field no write names keeps its raw value (R82, R84 (c)). -/
theorem raw_putAll_of_not_mem (p : Params) (ws : List (FieldName × Int)) (frame : List Byte) (g : FieldName)
    (hlen : p.minFrameSize ≤ frame.length) (hg : ∀ w ∈ ws, w.1 ≠ g) :
    raw (putAll p.layout ws frame) (p.layout.field g) = raw frame (p.layout.field g) := by
  induction ws generalizing frame with
  | nil => rfl
  | cons w ws ih =>
    have hlt : fieldIndex (p.layout.field w.1) < frame.length := by
      have := p.field_off_le w.1
      simp only [fieldIndex, payloadBase]; omega
    rw [putAll_cons, ih _ (by simpa using hlen) (fun w' hw' => hg w' (List.mem_cons_of_mem _ hw'))]
    exact raw_put_other _ _ _ _ (p.field_bits_le _) hlt (fun ho => p.noOverlap (hg w List.mem_cons_self) ho)

/-- A field that exactly one write names has the written value, masked, if it was zero before (R82). -/
theorem raw_putAll_of_mem (p : Params) (ws : List (FieldName × Int)) (frame : List Byte) (g : FieldName) (v : Int)
    (hlen : p.minFrameSize ≤ frame.length) (hz : raw frame (p.layout.field g) = 0)
    (hnd : (ws.map Prod.fst).Nodup) (hm : (g, v) ∈ ws) :
    raw (putAll p.layout ws frame) (p.layout.field g) = lo8 v &&& (p.layout.field g).mask := by
  induction ws generalizing frame with
  | nil => cases hm
  | cons w ws ih =>
    have hlt : fieldIndex (p.layout.field w.1) < frame.length := by
      have := p.field_off_le w.1
      simp only [fieldIndex, payloadBase]; omega
    have hlen' : p.minFrameSize ≤ (put frame (p.layout.field w.1) w.2).length := by simpa using hlen
    simp only [List.map_cons, List.nodup_cons, List.mem_map, not_exists, not_and] at hnd
    rw [putAll_cons]
    rcases List.mem_cons.mp hm with h | h
    · subst h
      rw [raw_putAll_of_not_mem p ws _ g hlen' (fun w' hw' he => hnd.1 w' hw' he),
        raw_put_same _ _ _ (p.field_bits_le _) hlt, hz, Nat.zero_or]
    · have hne : w.1 ≠ g := fun he => hnd.1 (g, v) h he.symm
      have hz' : raw (put frame (p.layout.field w.1) w.2) (p.layout.field g) = 0 := by
        rw [raw_put_other _ _ _ _ (p.field_bits_le _) hlt (fun ho => p.noOverlap hne ho), hz]
      exact ih _ hlen' hz' hnd.2 h

/-! ### ENCODE's frame -/

theorem blankFrame_length {n : Nat} (h : 4 ≤ n) : (blankFrame n).length = n := by
  simp [blankFrame]; omega

/-- Every field of the blank frame is 0 (R171). -/
theorem raw_blankFrame (p : Params) (n : Nat) (g : FieldName) : raw (blankFrame n) (p.layout.field g) = 0 := by
  have hp := p.field_off_pos g
  have hi : fieldIndex (p.layout.field g) = (p.layout.field g).off - 1 + 4 := by
    simp only [fieldIndex, payloadBase]; omega
  have hz : (blankFrame n).getD (fieldIndex (p.layout.field g)) 0 = 0 := by
    rw [hi, blankFrame, List.getD_eq_getElem?_getD, List.getElem?_append_right (by simp)]
    simp only [List.length_cons, List.length_nil, Nat.zero_add, Nat.reduceAdd, Nat.add_sub_cancel]
    by_cases hc : (p.layout.field g).off - 1 < n - 4
    · simp [hc]
    · simp [hc]
  rw [raw, hz]; simp

@[simp] theorem sealFrame_length (frame : List Byte) : (sealFrame frame).length = frame.length := by simp [sealFrame]

theorem encodeFrame_length (p : Params) (c : ClimateState) : (encodeFrame p c).length = p.encFrameSize := by
  have h6 := p.six_le_min
  have hm := p.min_le_enc
  simp only [encodeFrame, sealFrame_length, putAll_length]
  exact blankFrame_length (by omega)

/-- Sealing changes the last byte only. -/
theorem sealFrame_getElem?_of_lt (frame : List Byte) {i : Nat} (h : i + 1 < frame.length) :
    (sealFrame frame)[i]? = frame[i]? := by
  have : frame.length - 1 ≠ i := by omega
  simp [sealFrame, this]

theorem sealFrame_getLast? (frame : List Byte) (h : frame ≠ []) : (sealFrame frame).getLast? = some (cks frame) := by
  have hl : 0 < frame.length := List.length_pos_iff.mpr h
  simp only [sealFrame, List.getLast?_eq_getElem?, List.length_set, List.getElem?_set]
  simp [hl]

/-- The checksum does not read the last byte (R178). -/
theorem cks_set_last (frame : List Byte) (b : Byte) : cks (frame.set (frame.length - 1) b) = cks frame := by
  have h : ((frame.set (frame.length - 1) b).drop 2).dropLast = (frame.drop 2).dropLast := by
    rw [List.dropLast_eq_take, List.dropLast_eq_take]
    apply List.ext_getElem?
    intro i
    simp only [List.getElem?_take, List.getElem?_drop, List.length_drop, List.length_set, List.getElem?_set]
    by_cases hi : i < frame.length - 2 - 1
    · have hne : ¬ frame.length - 1 = 2 + i := by omega
      simp [hi, hne]
    · simp [hi]
  rw [cks, cks, h]

theorem cks_sealFrame (frame : List Byte) : cks (sealFrame frame) = cks frame := cks_set_last frame _

/-- A field's byte is never the last one, so sealing keeps every raw value (R84 (b)). -/
theorem raw_sealFrame (p : Params) (frame : List Byte) (g : FieldName) (h : p.minFrameSize ≤ frame.length) :
    raw (sealFrame frame) (p.layout.field g) = raw frame (p.layout.field g) := by
  have ho := p.field_off_le g
  have hi : fieldIndex (p.layout.field g) + 1 < frame.length := by simp only [fieldIndex, payloadBase]; omega
  simp only [raw, List.getD_eq_getElem?_getD, sealFrame_getElem?_of_lt frame hi]

/-- No field is written twice by ENCODE (R175). -/
theorem encodeWrites_nodup (t : Layout) (c : ClimateState) : ((encodeWrites t c).map Prod.fst).Nodup := by
  unfold encodeWrites modeWrites fanWrites
  cases wireOfMode c.mode <;> by_cases hf : c.fan = .turbo <;> simp [hf]

/-! ### The two lookups -/

/-- A code the map assigns is read back as its mode (R145). -/
theorem modeOfCode_code (p : Params) (m : WireMode) :
    modeOfCode p.layout.modeCode (p.layout.modeCode.code m) = some m := by
  have h : ∃ n, modeOfCode p.layout.modeCode (p.layout.modeCode.code m) = some n := by
    rw [← Option.isSome_iff_exists, modeOfCode, List.find?_isSome]
    exact ⟨m, m.mem_all, by simp⟩
  obtain ⟨n, hn⟩ := h
  have := List.find?_some hn
  rw [hn, p.modeCode_injective (of_decide_eq_true this)]

/-- A code the map assigns is read back as its level (R146). -/
theorem fanOfCode_code (p : Params) (v : WireFan) :
    fanOfCode p.layout.fanCode (p.layout.fanCode.code v) = some v := by
  have h : ∃ n, fanOfCode p.layout.fanCode (p.layout.fanCode.code v) = some n := by
    rw [← Option.isSome_iff_exists, fanOfCode, List.find?_isSome]
    exact ⟨v, v.mem_all, by simp⟩
  obtain ⟨n, hn⟩ := h
  have := List.find?_some hn
  rw [hn, p.fanCode_injective (of_decide_eq_true this)]

end Sys2Proof.Machine.Codec
end

