-- ==== Sys2Proof/Laws/State.lean ====
section
/-! SUPPORT. What each update of the state does to each field, true by rfl; cited by every later proof. -/

namespace Sys2Proof.Machine

variable (s : State)

/-! ### report -/

@[simp] theorem State.report_params (e : Event) : (s.report e).params = s.params := rfl
@[simp] theorem State.report_fstate (e : Event) : (s.report e).fstate = s.fstate := rfl
@[simp] theorem State.report_buf (e : Event) : (s.report e).buf = s.buf := rfl
@[simp] theorem State.report_frameSize (e : Event) : (s.report e).frameSize = s.frameSize := rfl
@[simp] theorem State.report_draws (e : Event) : (s.report e).draws = s.draws := rfl
@[simp] theorem State.report_pending (e : Event) : (s.report e).pending = s.pending := rfl
@[simp] theorem State.report_out (e : Event) : (s.report e).out = ⟨e, none, none, s.out.rdData⟩ := rfl

/-! ### reportDecoded -/

@[simp] theorem State.reportDecoded_params (c : ClimateState) : (s.reportDecoded c).params = s.params := rfl
@[simp] theorem State.reportDecoded_fstate (c : ClimateState) : (s.reportDecoded c).fstate = s.fstate := rfl
@[simp] theorem State.reportDecoded_buf (c : ClimateState) : (s.reportDecoded c).buf = s.buf := rfl
@[simp] theorem State.reportDecoded_frameSize (c : ClimateState) : (s.reportDecoded c).frameSize = s.frameSize := rfl
@[simp] theorem State.reportDecoded_draws (c : ClimateState) : (s.reportDecoded c).draws = s.draws := rfl
@[simp] theorem State.reportDecoded_pending (c : ClimateState) : (s.reportDecoded c).pending = s.pending := rfl
@[simp] theorem State.reportDecoded_out (c : ClimateState) : (s.reportDecoded c).out = ⟨.none, some c, none, s.out.rdData⟩ := rfl

/-! ### reportFrame -/

@[simp] theorem State.reportFrame_params (frame : List Byte) : (s.reportFrame frame).params = s.params := rfl
@[simp] theorem State.reportFrame_fstate (frame : List Byte) : (s.reportFrame frame).fstate = s.fstate := rfl
@[simp] theorem State.reportFrame_buf (frame : List Byte) : (s.reportFrame frame).buf = s.buf := rfl
@[simp] theorem State.reportFrame_frameSize (frame : List Byte) : (s.reportFrame frame).frameSize = s.frameSize := rfl
@[simp] theorem State.reportFrame_draws (frame : List Byte) : (s.reportFrame frame).draws = s.draws := rfl
@[simp] theorem State.reportFrame_pending (frame : List Byte) : (s.reportFrame frame).pending = s.pending := rfl
@[simp] theorem State.reportFrame_out (frame : List Byte) : (s.reportFrame frame).out = ⟨.none, none, some frame, s.out.rdData⟩ := rfl

/-! ### recover -/

@[simp] theorem State.recover_params : (s.recover).params = s.params := rfl
@[simp] theorem State.recover_fstate : (s.recover).fstate = .awaitingSync := rfl
@[simp] theorem State.recover_buf : (s.recover).buf = [] := rfl
@[simp] theorem State.recover_frameSize : (s.recover).frameSize = s.frameSize := rfl
@[simp] theorem State.recover_draws : (s.recover).draws = s.draws := rfl
@[simp] theorem State.recover_pending : (s.recover).pending = s.pending := rfl
@[simp] theorem State.recover_out : (s.recover).out = s.out := rfl

/-! ### release -/

@[simp] theorem State.release_params : (s.release).params = s.params := rfl
@[simp] theorem State.release_fstate : (s.release).fstate = .restart := rfl
@[simp] theorem State.release_buf : (s.release).buf = s.buf := rfl
@[simp] theorem State.release_frameSize : (s.release).frameSize = s.frameSize := rfl
@[simp] theorem State.release_draws : (s.release).draws = s.draws := rfl
@[simp] theorem State.release_pending : (s.release).pending = s.pending := rfl
@[simp] theorem State.release_out : (s.release).out = s.out := rfl

/-! ### clearFramer -/

@[simp] theorem State.clearFramer_params : (s.clearFramer).params = s.params := rfl
@[simp] theorem State.clearFramer_fstate : (s.clearFramer).fstate = .awaitingSync := rfl
@[simp] theorem State.clearFramer_buf : (s.clearFramer).buf = [] := rfl
@[simp] theorem State.clearFramer_frameSize : (s.clearFramer).frameSize = 0 := rfl
@[simp] theorem State.clearFramer_draws : (s.clearFramer).draws = s.draws := rfl
@[simp] theorem State.clearFramer_pending : (s.clearFramer).pending = s.pending := rfl
@[simp] theorem State.clearFramer_out : (s.clearFramer).out = s.out := rfl

/-! ### countDraw -/

@[simp] theorem State.countDraw_params : (s.countDraw).params = s.params := rfl
@[simp] theorem State.countDraw_fstate : (s.countDraw).fstate = s.fstate := rfl
@[simp] theorem State.countDraw_buf : (s.countDraw).buf = s.buf := rfl
@[simp] theorem State.countDraw_frameSize : (s.countDraw).frameSize = s.frameSize := rfl
@[simp] theorem State.countDraw_draws : (s.countDraw).draws = s.draws + 1 := rfl
@[simp] theorem State.countDraw_pending : (s.countDraw).pending = s.pending := rfl
@[simp] theorem State.countDraw_out : (s.countDraw).out = s.out := rfl

/-! ### pushPending -/

@[simp] theorem State.pushPending_params (xs : List Stimulus) : (s.pushPending xs).params = s.params := rfl
@[simp] theorem State.pushPending_fstate (xs : List Stimulus) : (s.pushPending xs).fstate = s.fstate := rfl
@[simp] theorem State.pushPending_buf (xs : List Stimulus) : (s.pushPending xs).buf = s.buf := rfl
@[simp] theorem State.pushPending_frameSize (xs : List Stimulus) : (s.pushPending xs).frameSize = s.frameSize := rfl
@[simp] theorem State.pushPending_draws (xs : List Stimulus) : (s.pushPending xs).draws = s.draws := rfl
@[simp] theorem State.pushPending_pending (xs : List Stimulus) : (s.pushPending xs).pending = xs ++ s.pending := rfl
@[simp] theorem State.pushPending_out (xs : List Stimulus) : (s.pushPending xs).out = s.out := rfl

/-! ### appendByte -/

@[simp] theorem State.appendByte_params (b : Byte) : (s.appendByte b).params = s.params := rfl
@[simp] theorem State.appendByte_fstate (b : Byte) : (s.appendByte b).fstate = s.fstate := rfl
@[simp] theorem State.appendByte_buf (b : Byte) : (s.appendByte b).buf = s.buf.append b := rfl
@[simp] theorem State.appendByte_frameSize (b : Byte) : (s.appendByte b).frameSize = s.frameSize := rfl
@[simp] theorem State.appendByte_draws (b : Byte) : (s.appendByte b).draws = s.draws := rfl
@[simp] theorem State.appendByte_pending (b : Byte) : (s.appendByte b).pending = s.pending := rfl
@[simp] theorem State.appendByte_out (b : Byte) : (s.appendByte b).out = s.out := rfl

/-! ### beginCycle -/

@[simp] theorem State.beginCycle_params (c : Fetched) : (s.beginCycle c).params = s.params := rfl
@[simp] theorem State.beginCycle_fstate (c : Fetched) : (s.beginCycle c).fstate = s.fstate := rfl
@[simp] theorem State.beginCycle_buf (c : Fetched) : (s.beginCycle c).buf = s.buf := rfl
@[simp] theorem State.beginCycle_frameSize (c : Fetched) : (s.beginCycle c).frameSize = s.frameSize := rfl
@[simp] theorem State.beginCycle_draws (c : Fetched) : (s.beginCycle c).draws = s.draws := rfl
@[simp] theorem State.beginCycle_pending (c : Fetched) : (s.beginCycle c).pending = c.rest := rfl
@[simp] theorem State.beginCycle_out (c : Fetched) :
    (s.beginCycle c).out = { s.out with rdData := s.buf.read c.rdIdx } := rfl

/-! ### The status outputs -/

theorem State.frameValid_iff : s.frameValid = true ↔ s.fstate = .complete := by simp [State.frameValid]

theorem State.feedReady_iff : s.feedReady = true ↔ s.fstate ≠ .complete := by simp [State.feedReady]

/-- `feed_ready` is the negation of `frame_valid` (R27). -/
theorem State.feedReady_eq : s.feedReady = !s.frameValid := by simp [State.feedReady, State.frameValid]

end Sys2Proof.Machine
end

