-- ==== Sys2Proof/Laws/CodecOps.lean ====
section
/-! SUPPORT. What DECODE can do, said once: one equation per outcome (R150, R205). -/

namespace Sys2Proof.Machine

variable {s t : State}

theorem decodeBuffer_noFrame (h : s.fstate ≠ .complete) : s.decodeBuffer = .next (s.report .noFrame) := by
  simp [State.decodeBuffer, h]

theorem decodeBuffer_underlength (h : s.fstate = .complete) (hl : s.buf.length < s.params.minFrameSize) :
    s.decodeBuffer = .next (s.report .underlengthFrame) := by
  simp [State.decodeBuffer, Codec.decodeFrame, h, hl, Codec.DecodeError.event]

theorem decodeBuffer_mismatch (h : s.fstate = .complete) (hl : s.params.minFrameSize ≤ s.buf.length)
    (hc : some (Codec.cks s.buf) ≠ s.buf.getLast?) : s.decodeBuffer = .next (s.report .checksumMismatch) := by
  have hl' : ¬ s.buf.length < s.params.minFrameSize := by omega
  simp only [State.decodeBuffer, Codec.decodeFrame, h, hl', hc, Codec.DecodeError.event, ne_eq, not_true_eq_false,
    if_false, not_false_eq_true, if_true]

theorem decodeBuffer_ok (h : s.fstate = .complete) (hl : s.params.minFrameSize ≤ s.buf.length)
    (hc : some (Codec.cks s.buf) = s.buf.getLast?) :
    s.decodeBuffer = .next (s.countDraw.reportDecoded
      (Codec.extract s.params.layout (Config.freeMode s.draws) (Config.freeFan s.draws) s.buf)) := by
  have hl' : ¬ s.buf.length < s.params.minFrameSize := by omega
  simp only [State.decodeBuffer, Codec.decodeFrame, h, hl', hc, ne_eq, not_true_eq_false, if_false]

/-- DECODE always answers a next state, and leaves the block's own state, the parameters and the host's stimuli alone. -/
theorem decodeBuffer_next (s : State) : ∃ t, s.decodeBuffer = .next t ∧ t.fstate = s.fstate ∧ t.buf = s.buf
    ∧ t.frameSize = s.frameSize ∧ t.params = s.params ∧ t.pending = s.pending ∧ t.out.rdData = s.out.rdData
    ∧ t.out.txFrame = none
    ∧ t.out.ev ∈ [Event.none, Event.underlengthFrame, Event.checksumMismatch, Event.noFrame] := by
  by_cases h : s.fstate = .complete
  · by_cases hl : s.buf.length < s.params.minFrameSize
    · exact ⟨_, decodeBuffer_underlength h hl, by simp⟩
    · by_cases hc : some (Codec.cks s.buf) = s.buf.getLast?
      · exact ⟨_, decodeBuffer_ok h (by omega) hc, by simp⟩
      · exact ⟨_, decodeBuffer_mismatch h (by omega) hc, by simp⟩
  · exact ⟨_, decodeBuffer_noFrame h, by simp⟩

end Sys2Proof.Machine
end

