-- ==== Sys2Proof/Laws/Decode.lean ====
section
/-! SUPPORT. Frames as bytes, and the port codes one by one (R30, R73). -/

namespace Sys2Proof

theorem frameLength_ge (l : Byte) : 4 ≤ frameLength l := by
  unfold frameLength
  split_ifs with h
  · omega
  · have : l.toNat ≠ 0 := fun hc => h (BitVec.eq_of_toNat_eq (by simpa using hc))
    simp only [hdrLen]; omega

theorem RawFrame.bytes_length (f : RawFrame) : f.bytes.length = f.body.length + 4 := by simp [RawFrame.bytes]

theorem RawFrame.wellFormed_iff (f : RawFrame) : f.wellFormed = true ↔ f.body.length + 4 = frameLength f.len := by
  simp [RawFrame.wellFormed]

/-- A whole frame with bytes after it: the frame, and the bytes after it (R73, R74). -/
theorem decodeFrame_bytes (cmdReport : Byte) (f : RawFrame) (left : List Byte) (h : f.wellFormed = true) :
    decodeFrame cmdReport (f.bytes ++ left) = .ok (frameKind cmdReport f, left) := by
  have hl := (RawFrame.wellFormed_iff f).mp h
  have hk : frameLength f.len - 4 = f.body.length := by omega
  have hle : frameLength f.len ≤ (f.body ++ left).length + 4 := by simp; omega
  have ht : (f.body ++ left).take f.body.length = f.body := by simp
  have hd : (f.body ++ left).drop f.body.length = left := by simp
  simp only [RawFrame.bytes, List.cons_append, decodeFrame, and_self, if_true, hle, hk, ht, hd]

/-- The read port drops what is wider than `LEN_W` bits (R40). -/
theorem PortsIn.rdPort_toNat (p : Params) (w : PortsIn) : (w.rdPort p).toNat = w.rdIdx % 2 ^ p.lenWidth :=
  BitVec.toNat_ofNat _ _

/-- An index the port can carry arrives as it is. -/
theorem PortsIn.rdPort_of_lt (p : Params) (w : PortsIn) (h : w.rdIdx < 2 ^ p.lenWidth) :
    (w.rdPort p).toNat = w.rdIdx := by
  rw [PortsIn.rdPort_toNat, Nat.mod_eq_of_lt h]

theorem Mode.ofPort_portCode (m : Mode) : Mode.ofPort m.portCode = m := by cases m <;> decide

theorem Fan.ofPort_portCode (v : Fan) : Fan.ofPort v.portCode = v := by cases v <;> decide

theorem Swing.ofPort_portBit (v : Swing) : Swing.ofPort v.portBit = v := by cases v <;> decide

/-- A 10-bit temperature reads back (R30). -/
theorem temperature_port {n : Int} (h1 : -512 ≤ n) (h2 : n ≤ 511) : (BitVec.ofInt 10 n).toInt = n := by
  rw [BitVec.toInt_ofInt]
  simp only [Int.bmod]
  omega

end Sys2Proof
end

