-- ==== Sys2Proof/Laws/Memory.lean ====
section
/-! SUPPORT. The buffer: reading after an append, the header test, and its one form: no operation makes it longer than
`DATA_MAX` (R22, R56). -/

namespace Sys2Proof.Machine

@[simp] theorem Memory.append_length (m : Memory) (b : Byte) : (m.append b).length = m.length + 1 := by
  simp [Memory.append]

@[simp] theorem Memory.header_length (x : Byte) : (Memory.header x).length = 3 := rfl

/-- The byte just appended reads back (R112). -/
theorem Memory.read_append_last (m : Memory) (b : Byte) : (m.append b).read m.length = some b := by
  simp [Memory.append, Memory.read]

/-- An append leaves every other byte alone (R112). -/
theorem Memory.read_append_of_lt (m : Memory) (b : Byte) {i : Nat} (h : i < m.length) :
    (m.append b).read i = m.read i := by
  simp [Memory.append, Memory.read, List.getElem?_append_left h]

theorem Memory.read_isSome_iff (m : Memory) (i : Nat) : (m.read i).isSome ↔ i < m.length := by
  simp [Memory.read]

/-- The whole buffer is `MemRead(0, len)` (R12). -/
theorem Memory.readRange_all (m : Memory) : m.readRange 0 m.length = some m := by
  simp [Memory.readRange]

/-- After an append the header test looks at the two bytes before and at the new one (R114). -/
theorem Memory.append_endsInHeader (m : Memory) (b : Byte) :
    (m.append b).endsInHeader = true ↔
      2 ≤ m.length ∧ m.read (m.length - 2) = some sync ∧ m.read (m.length - 1) = some sync ∧ b ≠ sync := by
  by_cases h : 2 ≤ m.length
  · have e3 : m.length + 1 - 3 = m.length - 2 := by omega
    have e2 : m.length + 1 - 2 = m.length - 1 := by omega
    have r3 := m.read_append_of_lt b (i := m.length - 2) (by omega)
    have r2 := m.read_append_of_lt b (i := m.length - 1) (by omega)
    have r1 := m.read_append_last b
    simp only [Memory.endsInHeader, Memory.append_length, e3, e2, Nat.add_sub_cancel, r3, r2, r1, Bool.and_eq_true,
      decide_eq_true_eq, ne_eq, Option.some.injEq]
    constructor
    · rintro ⟨⟨⟨-, a⟩, c⟩, d⟩; exact ⟨h, a, c, d⟩
    · rintro ⟨-, a, c, d⟩; exact ⟨⟨⟨by omega, a⟩, c⟩, d⟩
  · have : ¬ 3 ≤ m.length + 1 := by omega
    simp [Memory.endsInHeader, h, this]

theorem Memory.wf_iff (p : Params) (m : Memory) : m.wf p = true ↔ m.length ≤ p.dataMax := by
  simp [Memory.wf]

/-- The empty buffer of reset and of every clear fits (R44, R118). -/
theorem Memory.wf_nil (p : Params) : Memory.wf p [] = true := by simp [Memory.wf]

/-- The header fits every admissible instance (R8 (a), R115). -/
theorem Memory.wf_header (p : Params) (x : Byte) : (Memory.header x).wf p = true := by
  have h := p.four_le_dataMax
  exact (Memory.wf_iff p _).mpr (show 3 ≤ p.dataMax by omega)

/-- An append below `DATA_MAX` keeps the form (R56). -/
theorem Memory.wf_append (p : Params) (m : Memory) (b : Byte) (h : m.length < p.dataMax) :
    (m.append b).wf p = true := by
  rw [Memory.wf_iff, Memory.append_length]; omega

/-- The address and byte pairs hold exactly the bytes that read as something, at addresses rising from 0 (R33). -/
theorem Memory.cells_getElem? (m : Memory) (i : Nat) : m.cells[i]? = (m.read i).map fun b => (i, b) := by
  simp [Memory.cells, Memory.read, List.getElem?_zipIdx, Function.comp_def]

theorem Memory.cells_rising (m : Memory) : m.cells.Pairwise fun a b => a.1 < b.1 := by
  rw [List.pairwise_iff_getElem]
  intro i j hi hj hij
  simpa [Memory.cells] using hij

end Sys2Proof.Machine
end

