-- ==== Sys2Proof/Laws/Framer.lean ====
section
/-! SUPPORT. What FEED can do, said once: one equation per row of the transition table (R122), and the inversion of a FEED
that answers a next state. -/

namespace Sys2Proof.Machine

variable {s t : State} {b : Byte}

theorem feedByte_complete (h : s.fstate = .complete) : s.feedByte b = .next (s.report .feedNotAccepted) := by
  simp [State.feedByte, h]

/-- From Restart a FEED is the FEED of an empty AwaitingSync (R113). -/
theorem feedByte_restart (h : s.fstate = .restart) :
    s.feedByte b = ({ s with buf := [], fstate := .awaitingSync } : State).feedByte b := by
  simp [State.feedByte, State.lazyClear, h]

/-- AwaitingSync, room for the byte (R110, R114, R118). -/
theorem feedByte_scanning (h : s.fstate = .awaitingSync) (hl : s.buf.length < s.params.dataMax) :
    s.feedByte b = .next
      (if (s.buf.append b).endsInHeader then
        ({ s with buf := Memory.header b, frameSize := b, fstate := .receiving } : State).report .none
      else if s.buf.length + 1 = s.params.dataMax then (s.recover).report .framingOverflow
      else ({ s with buf := s.buf.append b } : State).report .none) := by
  have h4 := s.params.four_le_dataMax
  have hd : ¬ s.params.dataMax ≤ 3 := by omega
  have hl' : ¬ s.params.dataMax ≤ s.buf.length := by omega
  have he : s.params.dataMax ≤ s.buf.length + 1 ↔ s.buf.length + 1 = s.params.dataMax := by omega
  by_cases hh : (s.buf.append b).endsInHeader = true
  · simp [State.feedByte, State.lazyClear, State.advance, State.appendByte, State.checkOverflow, State.len, h, hl', hh,
      hd]
  · by_cases ho : s.buf.length + 1 = s.params.dataMax
    · simp [State.feedByte, State.lazyClear, State.advance, State.appendByte, State.checkOverflow, State.len, h, hl', hh,
        ho, State.recover, State.report]
    · have ho' : ¬ s.params.dataMax ≤ s.buf.length + 1 := fun hc => ho (he.mp hc)
      simp [State.feedByte, State.lazyClear, State.advance, State.appendByte, State.checkOverflow, State.len, h, hl', hh,
        ho, ho']

/-- Receiving, room for the byte (R110, R116, R117, R118). -/
theorem feedByte_receiving (h : s.fstate = .receiving) (hl : s.buf.length < s.params.dataMax) :
    s.feedByte b = .next
      (if s.frameSize - 1 = 0 then
        ({ s with buf := s.buf.append b, frameSize := 0, fstate := .complete } : State).report .none
      else if s.buf.length + 1 = s.params.dataMax then
        ({ s with buf := [], frameSize := s.frameSize - 1, fstate := .awaitingSync } : State).report .framingOverflow
      else ({ s with buf := s.buf.append b, frameSize := s.frameSize - 1 } : State).report .none) := by
  have hl' : ¬ s.params.dataMax ≤ s.buf.length := by omega
  by_cases hf : s.frameSize - 1#8 = 0#8
  · simp [State.feedByte, State.lazyClear, State.advance, State.appendByte, State.checkOverflow, h, State.len, hl', hf]
  · by_cases ho : s.buf.length + 1 = s.params.dataMax
    · simp [State.feedByte, State.lazyClear, State.advance, State.appendByte, State.checkOverflow, State.len, h, hl', hf,
        ho, State.recover, State.report]
    · have ho' : ¬ s.params.dataMax ≤ s.buf.length + 1 := by omega
      simp [State.feedByte, State.lazyClear, State.advance, State.appendByte, State.checkOverflow, State.len, h, hl', hf,
        ho, ho']

/-- A FEED that finds its buffer full stops by name (R22). -/
theorem feedByte_full (h : s.fstate = .awaitingSync ∨ s.fstate = .receiving) (hl : s.params.dataMax ≤ s.buf.length) :
    s.feedByte b = .fault .appendOutsideBuffer := by
  rcases h with h | h <;> simp [State.feedByte, State.lazyClear, State.len, h, hl]

/-- What a FEED leaves alone in every state: the parameters, the draws, the host's stimuli, and the read port; and it
returns neither a record nor a frame. -/
theorem feedByte_frame (h : s.feedByte b = .next t) :
    t.params = s.params ∧ t.draws = s.draws ∧ t.pending = s.pending ∧ t.out.rdData = s.out.rdData
      ∧ t.out.decOut = none ∧ t.out.txFrame = none := by
  have hd := s.params.four_le_dataMax
  have key : ∀ u : State, u.fstate = .awaitingSync ∨ u.fstate = .receiving → u.feedByte b = .next t →
      t.params = u.params ∧ t.draws = u.draws ∧ t.pending = u.pending ∧ t.out.rdData = u.out.rdData
        ∧ t.out.decOut = none ∧ t.out.txFrame = none := by
    intro u hu ht
    by_cases hl : u.buf.length < u.params.dataMax
    · rcases hu with hu | hu
      · rw [feedByte_scanning hu hl] at ht
        simp only [Host.Outcome.next.injEq] at ht
        subst ht
        split_ifs <;> simp
      · rw [feedByte_receiving hu hl] at ht
        simp only [Host.Outcome.next.injEq] at ht
        subst ht
        split_ifs <;> simp
    · rw [feedByte_full hu (by omega)] at ht
      cases ht
  cases hs : s.fstate with
  | awaitingSync => exact key s (.inl hs) h
  | receiving => exact key s (.inr hs) h
  | complete =>
    rw [feedByte_complete hs] at h
    simp only [Host.Outcome.next.injEq] at h
    subst h
    simp
  | restart =>
    rw [feedByte_restart hs] at h
    exact key { s with buf := [], fstate := .awaitingSync } (.inl rfl) h

/-- A FEED keeps the buffer inside `DATA_MAX` (R56). -/
theorem feedByte_wf (hw : s.buf.wf s.params = true) (h : s.feedByte b = .next t) : t.buf.wf t.params = true := by
  have h4 := s.params.four_le_dataMax
  have key : ∀ u : State, u.fstate = .awaitingSync ∨ u.fstate = .receiving → u.feedByte b = .next t →
      t.buf.wf t.params = true := by
    intro u hu ht
    have h4' := u.params.four_le_dataMax
    by_cases hl : u.buf.length < u.params.dataMax
    · rcases hu with hu | hu
      · rw [feedByte_scanning hu hl] at ht
        simp only [Host.Outcome.next.injEq] at ht
        subst ht
        split_ifs
        · exact Memory.wf_header _ _
        · exact Memory.wf_nil _
        · exact Memory.wf_append _ _ _ hl
      · rw [feedByte_receiving hu hl] at ht
        simp only [Host.Outcome.next.injEq] at ht
        subst ht
        split_ifs
        · exact Memory.wf_append _ _ _ hl
        · exact Memory.wf_nil _
        · exact Memory.wf_append _ _ _ hl
    · rw [feedByte_full hu (by omega)] at ht
      cases ht
  cases hs : s.fstate with
  | awaitingSync => exact key s (.inl hs) h
  | receiving => exact key s (.inr hs) h
  | complete =>
    rw [feedByte_complete hs] at h
    simp only [Host.Outcome.next.injEq] at h
    subst h
    exact hw
  | restart =>
    rw [feedByte_restart hs] at h
    exact key { s with buf := [], fstate := .awaitingSync } (.inl rfl) h

end Sys2Proof.Machine
end

