-- ==== Sys2Proof/Laws/PerInstr.lean ====
section
/-! SUPPORT. One lemma per instruction: the form of its encoding (R71, R73). -/

namespace Sys2Proof.Laws

/-- The encoding is one cycle, in which `rst` is 1 for RESET alone and the read port is not used, or it is bytes that begin
with the sync marker (R71, R73). -/
def EncodingForm.Statement (i : Instr) : Prop :=
  (∃ w : PortsIn, encode i = .cycle w ∧ (w.rst = true ↔ i = .reset) ∧ w.rdIdx = 0)
    ∨ ∃ bytes : List Byte, encode i = .line (sync :: sync :: bytes) ∧ 2 ≤ bytes.length

theorem EncodingForm.nop : EncodingForm.Statement .nop := .inl ⟨_, rfl, by decide, rfl⟩

theorem EncodingForm.feed (b : Byte) : EncodingForm.Statement (.feed b) := .inl ⟨_, rfl, by simp [PortsIn.idle], rfl⟩

theorem EncodingForm.restart : EncodingForm.Statement .restart := .inl ⟨_, rfl, by decide, rfl⟩

theorem EncodingForm.decode : EncodingForm.Statement .decode := .inl ⟨_, rfl, by decide, rfl⟩

theorem EncodingForm.encode (c : ClimateState) : EncodingForm.Statement (.encode c) :=
  .inl ⟨_, rfl, by simp [PortsIn.idle], rfl⟩

theorem EncodingForm.reservedOp5 : EncodingForm.Statement .reservedOp5 := .inl ⟨_, rfl, by decide, rfl⟩

theorem EncodingForm.reservedOp6 : EncodingForm.Statement .reservedOp6 := .inl ⟨_, rfl, by decide, rfl⟩

theorem EncodingForm.reservedOp7 : EncodingForm.Statement .reservedOp7 := .inl ⟨_, rfl, by decide, rfl⟩

theorem EncodingForm.reset : EncodingForm.Statement .reset := .inl ⟨_, rfl, by decide, rfl⟩

theorem EncodingForm.frameSet (f : RawFrame) : EncodingForm.Statement (.frameSet f) :=
  .inr ⟨f.len :: f.cmd :: f.body, rfl, by simp⟩

theorem EncodingForm.frameReport (f : RawFrame) : EncodingForm.Statement (.frameReport f) :=
  .inr ⟨f.len :: f.cmd :: f.body, rfl, by simp⟩

theorem EncodingForm.frameAny (f : RawFrame) : EncodingForm.Statement (.frameAny f) :=
  .inr ⟨f.len :: f.cmd :: f.body, rfl, by simp⟩

end Sys2Proof.Laws
end

