-- ==== Sys2Proof/Laws/Step.lean ====
section
/-! SUPPORT. What a fetch gives for each kind of stimulus, what a poll cycle does, and a run cut into steps. -/

namespace Sys2Proof.Machine

variable {s t : State}

/-! ### Fetch -/

theorem fetch_idle (h : s.pending = []) : s.fetch = ⟨.nop, 0, []⟩ := by simp [State.fetch, h, fetchFrom]

theorem fetch_cycle {w : PortsIn} {rest : List Stimulus} (h : s.pending = .cycle w :: rest) :
    s.fetch = ⟨decodeCycle w, (w.rdPort s.params).toNat, rest⟩ := by simp [State.fetch, h, fetchFrom]

theorem fetch_frame {bs left : List Byte} {i : Instr} {rest : List Stimulus} (h : s.pending = .line bs :: rest)
    (hd : decodeFrame s.params.cmdReport bs = .ok (i, left)) : s.fetch = ⟨i, 0, .line left :: rest⟩ := by
  simp [State.fetch, h, fetchFrom, hd]

theorem fetch_noise_complete {bs : List Byte} {e : Reject} {rest : List Stimulus}
    (h : s.pending = .line bs :: rest) (hd : decodeFrame s.params.cmdReport bs = .error e)
    (hs : s.fstate = .complete) : s.fetch = ⟨.decode, 0, .cycle restartPins :: .line bs :: rest⟩ := by
  simp [State.fetch, h, fetchFrom, hd, State.frameValid, hs]

theorem fetch_noise {b : Byte} {bs : List Byte} {e : Reject} {rest : List Stimulus}
    (h : s.pending = .line (b :: bs) :: rest) (hd : decodeFrame s.params.cmdReport (b :: bs) = .error e)
    (hs : s.fstate ≠ .complete) : s.fetch = ⟨.feed b, 0, .line bs :: rest⟩ := by
  simp [State.fetch, h, fetchFrom, hd, State.frameValid, hs]

/-- A drained line with no complete frame is passed over: the next stimulus gives the cycle (R240). -/
theorem fetch_drained {rest : List Stimulus} (h : s.pending = .line [] :: rest) (hs : s.fstate ≠ .complete) :
    s.fetch = fetchFrom s.params false rest := by
  simp [State.fetch, h, fetchFrom, decodeFrame, State.frameValid, hs]

/-! ### A cycle of the reference loop -/

theorem pollBytes_complete {bytes : List Byte} (h : s.fstate = .complete) :
    s.pollBytes bytes = (s.pushPending [.cycle restartPins, .line bytes]).decodeBuffer := by
  simp [State.pollBytes, h]

theorem pollBytes_feed {b : Byte} {bytes : List Byte} (h : s.fstate ≠ .complete) :
    s.pollBytes (b :: bytes) = (s.pushPending [.line bytes]).feedByte b := by
  simp [State.pollBytes, h]

/-! ### Runs -/

@[simp] theorem run_zero (s : State) : run 0 s = .next s := rfl

theorem run_succ_next {k : Nat} (h : step s = .next t) : run (k + 1) s = run k t := by
  have hc : Host.Core.step Sys2Proof.core s = .next t := h
  simp only [run, Host.Core.run, hc]
  rfl

theorem run_succ_fault {k : Nat} {r : Fault} (h : step s = .fault r) : run (k + 1) s = .fault r := by
  have hc : Host.Core.step Sys2Proof.core s = .fault r := h
  simp only [run, Host.Core.run, hc]
  rfl

theorem run_succ_refused {k : Nat} {r : Refusal} (h : step s = .refused r) : run (k + 1) s = .refused r := by
  have hc : Host.Core.step Sys2Proof.core s = .refused r := h
  simp only [run, Host.Core.run, hc]
  rfl

theorem run_one (s : State) : run 1 s = step s := by
  cases h : step s with
  | next u => rw [run_succ_next h, run_zero]
  | fault r => exact run_succ_fault h
  | refused r => exact run_succ_refused h

/-- A run is cut anywhere. -/
theorem run_add {j k : Nat} {s t : State} (h : run j s = .next t) : run (j + k) s = run k t := by
  induction j generalizing s with
  | zero =>
    have : s = t := by simpa using h
    subst this
    rw [Nat.zero_add]
  | succ j ih =>
    cases hs : step s with
    | next u =>
      rw [run_succ_next hs] at h
      rw [show j + 1 + k = (j + k) + 1 by omega, run_succ_next hs]
      exact ih h
    | fault r => rw [run_succ_fault hs] at h; cases h
    | refused r => rw [run_succ_refused hs] at h; cases h

end Sys2Proof.Machine
end

