-- ==== Sys2Proof/Tests/Slice0.lean ====
section
/-! SUPPORT. The model's own tests: ill-formed terms refused, words of the spec decoded, vectors of spec/95_test_vectors.md
one step each, and a witness for the hypotheses of every statement. -/

namespace Sys2Proof.Tests

open Sys2Proof Sys2Proof.Machine

/-! ### Helpers -/

/-- A Framer state of REF with another `DATA_MAX`, written as the vectors write it (R93). -/
def st (f : Fstate) (b : List Byte) (fs : Byte) (n : Nat := 64) (h : 4 ≤ n := by decide) : State :=
  { State.reset with params := Params.refWith n h, fstate := f, buf := b, frameSize := fs }

/-- The state and the event a next outcome shows. -/
def shows (o : Host.Outcome State Fault Refusal) (f : Fstate) (b : List Byte) (fs : Byte) (e : Event) : Bool :=
  match o with
  | .next t => decide (t.fstate = f) && decide (t.buf = b) && decide (t.frameSize = fs) && decide (t.out.ev = e)
  | _ => false

/-- A check of the next state. -/
def next? (o : Host.Outcome State Fault Refusal) (p : State → Bool) : Bool :=
  match o with
  | .next t => p t
  | _ => false

/-- The machine stopped for want of room in the buffer. -/
def stops (o : Host.Outcome State Fault Refusal) : Bool :=
  match o with
  | .fault .appendOutsideBuffer => true
  | _ => false

/-- Leading bytes, a run of `z` bytes of 0, last bytes. -/
def fr (a : List Byte) (z : Nat) (b : List Byte) : List Byte := a ++ List.replicate z 0 ++ b

/-- The neutral record of REF. -/
def neutral : ClimateState := ClimateState.neutral Params.ref

/-- The record the decode vectors start from. -/
def decoded : ClimateState := { neutral with power := true, mode := .auto, currentTemp := -40 }

/-- V50's operand. -/
def v50 : ClimateState :=
  ⟨true, .cool, 24, 0, .high, .full, .full, false, false, false, false, false, 0, 0⟩

/-- V30. -/
def v30 : List Byte := fr [0x7E, 0x7E, 0x2D, 0x04, 0x80] 42 [0xB1]

/-- V31. -/
def v31 : List Byte := fr [0x7E, 0x7E, 0x2D, 0x04, 0x92, 0x80, 0x16, 0x10, 0x0B] 37 [0x5A, 0xCE]

/-- A Complete state of REF with this buffer. -/
def full (b : List Byte) : State := st .complete b 0

/-- `DATA_MAX` bytes of 0x55. -/
def noise (n : Nat) : List Byte := List.replicate n 0x55

/-! ### Ill-formed terms -/

theorem test_wf_ok : (Instr.encode neutral).wellFormed Params.ref = true
    ∧ (Instr.frameSet ⟨2, 1, [3]⟩).wellFormed Params.ref = true := by decide

theorem test_wf_target_low : (Instr.encode { neutral with targetTemp := -513 }).wellFormed Params.ref = false := by decide

theorem test_wf_target_high : (Instr.encode { neutral with targetTemp := 512 }).wellFormed Params.ref = false := by decide

theorem test_wf_current_low : (Instr.encode { neutral with currentTemp := -513 }).wellFormed Params.ref = false := by decide

theorem test_wf_current_high : (Instr.encode { neutral with currentTemp := 512 }).wellFormed Params.ref = false := by decide

theorem test_wf_display : (Instr.encode { neutral with display := 256 }).wellFormed Params.ref = false := by decide

theorem test_wf_display_unit : (Instr.encode { neutral with displayUnit := 256 }).wellFormed Params.ref = false := by decide

theorem test_wf_frame_length : (Instr.frameSet ⟨2, 1, []⟩).wellFormed Params.ref = false := by decide

theorem test_wf_set_command : (Instr.frameSet ⟨1, 4, []⟩).wellFormed Params.ref = false := by decide

theorem test_wf_report_length : (Instr.frameReport ⟨3, 4, [0]⟩).wellFormed Params.ref = false := by decide

theorem test_wf_report_command : (Instr.frameReport ⟨1, 1, []⟩).wellFormed Params.ref = false := by decide

theorem test_wf_any_length : (Instr.frameAny ⟨1, 9, [0]⟩).wellFormed Params.ref = false := by decide

theorem test_wf_any_set : (Instr.frameAny ⟨1, 1, []⟩).wellFormed Params.ref = false := by decide

theorem test_wf_any_report : (Instr.frameAny ⟨1, 4, []⟩).wellFormed Params.ref = false := by decide

/-! ### Decoding: words from the spec's tables (R30, R71, R73, R76) -/

/-- Every pin but `op` and `rx_data`, at values no operation of the tests reads. -/
def pins (op : BitVec 3) (rx : Byte) : PortsIn := ⟨false, op, rx, .zero, 5⟩

theorem test_decode_nop : decodeCycle (pins 0b000 0xAA) = .nop := by decide

theorem test_decode_feed : decodeCycle (pins 0b001 0b10100101) = .feed 0xA5 := by decide

theorem test_decode_restart : decodeCycle (pins 0b010 0xAA) = .restart := by decide

theorem test_decode_decode : decodeCycle (pins 0b011 0xAA) = .decode := by decide

/-- The operand's codes are R30's: Cool 2, 24 degrees, -1, High 3. -/
theorem test_decode_encode :
    decodeCycle { pins 0b100 0xAA with
      encIn := ⟨true, 0b010, 0b0000011000, 0b1111111111, 0b011, true, false, true, false, true, false, true,
        0b00000111, 0b00000001⟩ }
    = .encode ⟨true, .cool, 24, -1, .high, .full, .off, true, false, true, false, true, 7, 1⟩ := by decide

theorem test_decode_reserved5 : decodeCycle (pins 0b101 0xAA) = .reservedOp5 := by decide

theorem test_decode_reserved6 : decodeCycle (pins 0b110 0xAA) = .reservedOp6 := by decide

theorem test_decode_reserved7 : decodeCycle (pins 0b111 0xAA) = .reservedOp7 := by decide

theorem test_decode_reset : decodeCycle { pins 0b001 0x7E with rst := true } = .reset := by decide

theorem test_decode_frame_set : decode Params.ref (.line [0x7E, 0x7E, 0x02, 0x01, 0x03, 0x99])
    = .ok (.frameSet ⟨0x02, 0x01, [0x03]⟩, [0x99]) := by rfl

theorem test_decode_frame_report : decode Params.ref (.line [0x7E, 0x7E, 0x03, 0x04, 0x80, 0x87])
    = .ok (.frameReport ⟨0x03, 0x04, [0x80, 0x87]⟩, []) := by rfl

theorem test_decode_frame_any : decode Params.ref (.line [0x7E, 0x7E, 0x01, 0xFF])
    = .ok (.frameAny ⟨0x01, 0xFF, []⟩, []) := by rfl

theorem test_reject_empty : decode Params.ref (.line []) = .error .lineEmpty := by rfl

theorem test_reject_no_sync : decode Params.ref (.line [0x7E, 0x00, 0x7E, 0x7E, 0x01]) = .error .noSync := by rfl

theorem test_reject_truncated : decode Params.ref (.line [0x7E, 0x7E, 0x03, 0x04, 0x80]) = .error .truncated := by rfl

/-- The shortest header: one byte short of a frame, and two. -/
theorem test_reject_short : decode Params.ref (.line [0x7E, 0x7E, 0x01]) = .error .truncated
    ∧ decode Params.ref (.line [0x7E]) = .error .truncated := ⟨rfl, rfl⟩

theorem test_encode_ports : encode (.encode { neutral with mode := .dry, power := true, fan := .turbo })
    = .cycle { PortsIn.idle with op := 0b100, encIn :=
        { ClimatePorts.zero with power := true, mode := 0b101, targetTemp := 16, fan := 0b100 } } := by decide

theorem test_port_codes : Event.none.code = 0 ∧ Event.framingOverflow.code = 1 ∧ Event.underlengthFrame.code = 2
    ∧ Event.checksumMismatch.code = 3 ∧ Event.noFrame.code = 4 ∧ Event.feedNotAccepted.code = 5
    ∧ Fstate.awaitingSync.portCode = 0 ∧ Fstate.receiving.portCode = 1 ∧ Fstate.complete.portCode = 2
    ∧ Fstate.restart.portCode = 3 := by decide

/-- A table word runs as the very next step (V4's last step, and RESET on the `rst` port). -/
theorem test_fetch_word : shows (step ((st .receiving [0x7E, 0x7E, 0x01] 1).withFetchWord 8 1))
      .complete [0x7E, 0x7E, 0x01, 0x00] 0 .none = true
    ∧ shows (step ((st .receiving [0x7E, 0x7E, 0x01] 1).withFetchWord 1 1)) .awaitingSync [] 0 .none = true
    ∧ shows (step (State.reset.withFetchWord 32 0x7E7E0104)) .awaitingSync [0x7E] 0 .none = true := by decide

/-! ### Vectors: FEED, RESTART, NOP, RESET -/

theorem test_V1_header : shows (exec (.feed 0x02) (st .awaitingSync [0x7E, 0x7E] 0)) .receiving [0x7E, 0x7E, 0x02] 2
    .none = true := by decide

theorem test_V13_header_before_overflow :
    shows (exec (.feed 0x03) (st .awaitingSync [1, 2, 3, 4, 5, 0x7E, 0x7E] 0 8)) .receiving [0x7E, 0x7E, 0x03] 3
      .none = true := by decide

theorem test_V6_restart : shows (exec .restart (st .complete [0x7E, 0x7E, 0x01, 0x55] 0)) .restart
    [0x7E, 0x7E, 0x01, 0x55] 0 .none = true := by decide

theorem test_V14_restart : shows (exec .restart (st .receiving [0x7E, 0x7E, 0x05, 0x01, 0x02] 3)) .restart
    [0x7E, 0x7E, 0x05, 0x01, 0x02] 3 .none = true := by decide

theorem test_V6_nop : shows (exec .nop (st .restart [0x7E, 0x7E, 0x01, 0x55] 0)) .restart [0x7E, 0x7E, 0x01, 0x55] 0
    .none = true := by decide

theorem test_V16_reset : shows (exec .reset (st .receiving [0x7E, 0x7E, 0x02, 0xAA] 1)) .awaitingSync [] 0 .none = true :=
  by decide

theorem test_V17_reserved : shows (exec .reservedOp5 (st .receiving [0x7E, 0x7E, 0x02] 2)) .receiving
      [0x7E, 0x7E, 0x02] 2 .none = true
    ∧ shows (exec .reservedOp6 (st .receiving [0x7E, 0x7E, 0x02] 2)) .receiving [0x7E, 0x7E, 0x02] 2 .none = true
    ∧ shows (exec .reservedOp7 (st .receiving [0x7E, 0x7E, 0x02] 2)) .receiving [0x7E, 0x7E, 0x02] 2 .none = true := by
  decide

/-! ### Vectors: checksum, DECODE, ENCODE -/

theorem test_V20_checksum : Codec.cks [0x7E, 0x7E, 0x02, 0xAA, 0xBB] = 0xAC
    ∧ Codec.cks [0x7E, 0x7E, 0x03, 0xFF, 0xFF, 0x01] = 0x01 ∧ Codec.cks [0x7E, 0x7E, 0x01, 0x01] = 0x01 := by decide

theorem test_V31_decode : next? (exec .decode (full v31)) (fun t => decide (t.out.ev = .none ∧ t.out.decOut
    = some { decoded with mode := .cool, targetTemp := 24, currentTemp := 50, fan := .medium, swingV := .full,
                          plasma := true, beeper := true, xfan := true, display := 3, displayUnit := 1 })) = true := by
  decide +kernel

theorem test_V32_power_gates_mode :
    next? (exec .decode (full (fr [0x7E, 0x7E, 0x2D, 0x04, 0x13, 0xF0] 41 [0x34]))) (fun t => decide (t.out.decOut
      = some { decoded with power := false, mode := .off, fan := .high, targetTemp := 31 })) = true := by decide +kernel

theorem test_V50_encode : next? (exec (.encode v50) State.reset) (fun t => decide (t.out.txFrame
      = some (fr [0x7E, 0x7E, 0x2D, 0x01, 0x93, 0x80, 0x00, 0x11] 39 [0x52]))) = true := by decide +kernel

theorem test_V56_encode_invalid : next? (exec (.encode { neutral with power := true, mode := .auto, targetTemp := 15 })
      State.reset) (fun t => decide (t.out.txFrame
      = some (fr [0x7E, 0x7E, 0x2D, 0x01, 0x80, 0xF0] 41 [0x9E]))) = true := by decide +kernel

/-! ### Vectors: frames on the line -/

theorem test_frame_set : next? (exec (.frameSet ⟨2, 1, [3]⟩) (st .restart [0x11] 9)) (fun t =>
    decide (t.fstate = .awaitingSync ∧ t.buf = [0x7E] ∧ t.pending = [.line [0x7E, 2, 1, 3]])) = true := by decide

theorem test_frame_report : next? (exec (.frameReport ⟨2, 4, [6]⟩) (full [0x7E, 0x7E, 0x01, 0x55])) (fun t =>
    decide (t.fstate = .complete ∧ t.out.ev = .underlengthFrame
      ∧ t.pending = [.cycle restartPins, .line [0x7E, 0x7E, 2, 4, 6]])) = true := by decide

theorem test_frame_any : next? (exec (.frameAny ⟨1, 9, []⟩) State.reset) (fun t =>
    decide (t.buf = [0x7E] ∧ t.pending = [.line [0x7E, 1, 9]])) = true := by decide

/-! ### Witnesses: states and operands that meet the hypotheses of each statement, at the ends of their ranges -/

/-- V34: V30 with a wrong field byte. -/
def v34 : List Byte := fr [0x7E, 0x7E, 0x2D, 0x04, 0x80, 0x01] 41 [0xB1]

/-- A state with these stimuli in the host's store. -/
def feeding (s : State) (xs : List Stimulus) : State := { s with pending := xs }

theorem witness_ResetPinOverridesOperation :
    let w : PortsIn := { pins 0b010 0x7E with rst := true };
    (feeding (full v30) [.cycle w]).pending = .cycle w :: [] ∧ w.rst = true := ⟨rfl, rfl⟩

theorem witness_FeedRefusedInComplete : (full v30).fstate = .complete := rfl

theorem witness_FeedAfterRestartStartsAnew : (st .restart v30 0).fstate = .restart := rfl

/-- The header at the last place it can be found, and the smallest one; an append that leaves one place; an append that
takes the last place. -/
theorem witness_FeedWhileScanning :
    (let s := st .awaitingSync [1, 2, 3, 4, 5, 0x7E, 0x7E] 0 8;
      s.fstate = .awaitingSync ∧ s.buf.length < s.params.dataMax ∧ 2 ≤ s.buf.length
        ∧ s.buf[s.buf.length - 2]? = some 0x7E ∧ s.buf[s.buf.length - 1]? = some 0x7E ∧ (0x00 : Byte) ≠ 0x7E)
    ∧ (let s := st .awaitingSync [0x7E, 0x7E] 0 4;
        s.fstate = .awaitingSync ∧ s.buf.length < s.params.dataMax ∧ 2 ≤ s.buf.length
          ∧ s.buf[s.buf.length - 2]? = some 0x7E ∧ s.buf[s.buf.length - 1]? = some 0x7E ∧ (0xFF : Byte) ≠ 0x7E)
    ∧ (let s := st .awaitingSync [1, 0x7E] 0 4;
        s.fstate = .awaitingSync ∧ s.buf[s.buf.length - 2]? ≠ some 0x7E ∧ s.buf.length + 1 < s.params.dataMax)
    ∧ (let s := st .awaitingSync [1, 0x7E, 0x7E] 0 4;
        s.fstate = .awaitingSync ∧ ¬ (0x7E : Byte) ≠ 0x7E ∧ s.buf.length + 1 = s.params.dataMax) := by decide

/-- The completing byte in a full buffer (V9); a countdown from 0 and from 2; an overflow (V8). -/
theorem witness_FeedWhileReceiving :
    (let s := st .receiving [0x7E, 0x7E, 5, 1, 2, 3, 4] 1 8;
      s.fstate = .receiving ∧ s.buf.length < s.params.dataMax ∧ s.frameSize = 1)
    ∧ (let s := st .receiving [0x7E, 0x7E, 0] 0;
        s.fstate = .receiving ∧ s.frameSize ≠ 1 ∧ s.buf.length + 1 < s.params.dataMax)
    ∧ (let s := st .receiving [0x7E, 0x7E, 6, 1, 2, 3, 4] 2 8;
        s.fstate = .receiving ∧ s.frameSize ≠ 1 ∧ s.buf.length + 1 = s.params.dataMax) := by decide

theorem witness_FeedOnFullBufferStops :
    (let s := st .awaitingSync [1, 2, 3, 4] 0 4;
      s.fstate = .awaitingSync ∧ s.params.dataMax ≤ s.buf.length ∧ stops (exec (.feed 9) s) = true)
    ∧ (let s := st .receiving [0x7E, 0x7E, 9, 4, 5] 7 4;
        s.fstate = .receiving ∧ s.params.dataMax ≤ s.buf.length ∧ stops (exec (.frameSet ⟨1, 1, []⟩) s) = true) := by
  decide

/-- A FEED and a frame's first byte complete a frame; RESTART and RESET leave it; RESTART enters Restart. -/
theorem witness_CompleteAndRestartTransitions :
    next? (exec (.feed 9) (st .receiving [0x7E, 0x7E, 1] 1)) (fun t => decide (t.fstate = .complete)) = true
    ∧ next? (exec (.frameAny ⟨1, 9, []⟩) (st .receiving [0x7E, 0x7E, 1] 1)) (fun t => decide (t.fstate = .complete)) = true
    ∧ next? (exec .restart (full [0x7E, 0x7E, 1, 9])) (fun t => decide (t.fstate = .restart)) = true
    ∧ next? (exec .reset (full [0x7E, 0x7E, 1, 9])) (fun t => decide (t.fstate = .awaitingSync)) = true
    ∧ next? (exec .restart State.reset) (fun t => decide (t.fstate = .restart)) = true := by decide

theorem witness_CodecAndNopKeepFramer : (∃ t, exec .nop (full v31) = .next t) ∧ (∃ t, exec .decode (full v31) = .next t)
    ∧ (∃ t, exec (.encode v50) (full v31) = .next t) ∧ ∃ t, exec .reservedOp7 (full v31) = .next t :=
  ⟨⟨_, rfl⟩, ⟨_, rfl⟩, ⟨_, rfl⟩, ⟨_, rfl⟩⟩

theorem witness_HandshakeKeepsBuffer : (∃ t, exec (.feed 1) (full v31) = .next t) ∧ (full v31).fstate = .complete
    ∧ (∃ t, exec .decode (st .restart v31 0) = .next t) ∧ (st .restart v31 0).fstate = .restart :=
  ⟨⟨_, rfl⟩, rfl, ⟨_, rfl⟩, rfl⟩

theorem witness_CompleteStallsUnderFeeds :
    let s := feeding (full v30) (feeds [0x7E, 0x7E, 1, 2] ++ [.cycle restartPins]);
    s.fstate = .complete ∧ s.pending = feeds [0x7E, 0x7E, 1, 2] ++ [.cycle restartPins] := ⟨rfl, rfl⟩

/-- AwaitingSync with a byte buffered, a frame that just fits, one byte of garbage. -/
theorem witness_ResynchronizesOnHeader :
    let s := feeding (st .awaitingSync [0x11] 0 5) (feeds ([0x22] ++ [0x7E, 0x7E, 2] ++ [3, 4]));
    (s.fstate = .awaitingSync ∧ 1 = s.buf.length ∧ 1 < s.params.dataMax)
      ∧ s.pending = feeds ([0x22] ++ [0x7E, 0x7E, 2] ++ [3, 4]) ++ []
      ∧ (2 : Byte) ≠ 0x7E ∧ (2 : Byte) ≠ 0 ∧ ([3, 4] : List Byte).length = (2 : Byte).toNat
      ∧ 3 + (2 : Byte).toNat ≤ s.params.dataMax
      ∧ (∀ k u, k ≤ ([0x22] : List Byte).length → run k s = .next u → u.fstate ≠ .receiving)
      ∧ (1 + ([0x22] : List Byte).length + 1) % s.params.dataMax ≠ 0
      ∧ (1 + ([0x22] : List Byte).length + 2) % s.params.dataMax ≠ 0 := by
  refine ⟨by decide, rfl, by decide, by decide, rfl, by decide, ?_, by decide, by decide⟩
  rintro (_ | _ | k) u hk h
  · cases h; decide
  · cases h; decide
  · simp at hk

/-- Restart, no garbage, a frame that just fits the smallest buffer. -/
theorem witness_ResynchronizesOnHeader_restart :
    let s := feeding (st .restart [9, 9, 9] 7 4) (feeds ([] ++ [0x7E, 0x7E, 1] ++ [3]));
    s.fstate = .restart ∧ s.pending = feeds ([] ++ [0x7E, 0x7E, 1] ++ [3]) ++ [] ∧ 3 + (1 : Byte).toNat ≤ s.params.dataMax
      ∧ (∀ k u, k ≤ ([] : List Byte).length → run k s = .next u → u.fstate ≠ .receiving)
      ∧ (0 + ([] : List Byte).length + 1) % s.params.dataMax ≠ 0
      ∧ (0 + ([] : List Byte).length + 2) % s.params.dataMax ≠ 0 := by
  refine ⟨rfl, rfl, by decide, ?_, by decide, by decide⟩
  rintro (_ | k) u hk h
  · cases h; decide
  · simp at hk

/-- Bytes that overflow once, from AwaitingSync with the last place free; and one byte from Restart. -/
theorem witness_LenCountsModuloDataMax :
    (let s := feeding (st .awaitingSync [1, 2, 3] 0 4) (feeds [0x7E]);
      s.fstate = .awaitingSync ∧ 3 = s.buf.length ∧ 3 < s.params.dataMax ∧ s.pending = feeds [0x7E] ++ []
        ∧ ∀ k u, k ≤ ([0x7E] : List Byte).length → run k s = .next u → u.fstate ≠ .receiving)
    ∧ (let s := feeding (st .restart [1, 2, 3, 4] 0 4) (feeds [0x7E]);
        s.fstate = .restart ∧ s.pending = feeds [0x7E] ++ []
          ∧ ∀ k u, k ≤ ([0x7E] : List Byte).length → run k s = .next u → u.fstate ≠ .receiving) := by
  refine ⟨⟨rfl, rfl, by decide, rfl, ?_⟩, rfl, rfl, ?_⟩
  all_goals
    rintro (_ | _ | k) u hk h
    · cases h; decide
    · cases h; decide
    · simp at hk

theorem witness_DataMaxFeedsMakeProgress :
    let s := feeding State.reset (feeds (noise 64) ++ [])
    s.Inv ∧ s.fstate ≠ .complete ∧ s.pending = feeds (noise 64) ++ [] ∧ (noise 64).length = s.params.dataMax := by
  refine ⟨⟨by decide, ?_⟩, by decide, rfl, by decide⟩
  intro i h2 hi
  exact absurd hi (Nat.not_lt_zero i)

theorem witness_HeaderlessBytesOverflow :
    let s := feeding (st .awaitingSync [] 3 4) (feeds [0x55, 0x7E, 0x7E, 0x7E]);
    s.fstate = .awaitingSync ∧ s.buf = [] ∧ s.pending = feeds [0x55, 0x7E, 0x7E, 0x7E] ++ []
      ∧ ([0x55, 0x7E, 0x7E, 0x7E] : List Byte).length = s.params.dataMax
      ∧ Memory.NoHeader [0x55, 0x7E, 0x7E, 0x7E] := by
  refine ⟨rfl, rfl, rfl, rfl, ?_⟩
  intro i h2 hi
  have : i = 2 ∨ i = 3 := by simp only [List.length_cons, List.length_nil] at hi; omega
  rcases this with rfl | rfl <;> decide

/-- The last instance that overflows, the first that completes, and the smallest. -/
theorem witness_ZeroLengthHeaderCounts256 :
    (let s := feeding (st .receiving [0x7E, 0x7E, 0] 0 258) (feeds (noise 255));
      s.fstate = .receiving ∧ s.buf = [0x7E, 0x7E, 0x00] ∧ s.frameSize = 0 ∧ s.params.dataMax ≤ 258
        ∧ (noise 255).length = s.params.dataMax - 3)
    ∧ (let s := feeding (st .receiving [0x7E, 0x7E, 0] 0 259) (feeds (noise 256));
        s.fstate = .receiving ∧ s.buf = [0x7E, 0x7E, 0x00] ∧ s.frameSize = 0 ∧ 259 ≤ s.params.dataMax
          ∧ (noise 256).length = 256)
    ∧ (let s := feeding (st .receiving [0x7E, 0x7E, 0] 0 4) (feeds (noise 1));
        s.params.dataMax ≤ 258 ∧ (noise 1).length = s.params.dataMax - 3) := by
  decide +kernel

theorem witness_OversizeFrameOverflows :
    (let s := feeding (st .receiving [0x7E, 0x7E, 2] 2 4) (feeds [0x55]);
      s.fstate = .receiving ∧ s.buf = [0x7E, 0x7E, 2] ∧ s.frameSize = 2 ∧ s.params.dataMax < 3 + (2 : Byte).toNat
        ∧ s.pending = feeds [0x55] ++ [] ∧ ([0x55] : List Byte).length = s.params.dataMax - 3)
    ∧ (let s := feeding (st .receiving [0x7E, 0x7E, 0xFF] 0xFF 257) (feeds (noise 254));
        s.params.dataMax < 3 + (0xFF : Byte).toNat ∧ (noise 254).length = s.params.dataMax - 3) := by decide +kernel

/-- One state of each kind that meets the invariant (R45). -/
theorem witness_Inv : (st .awaitingSync [0x7E, 0x7E, 0x7E] 5 4).Inv ∧ (st .receiving [0x7E, 0x7E, 0x05, 1] 4 5).Inv
    ∧ (st .complete [0x7E, 0x7E, 0x01, 0x7E] 0 4).Inv ∧ (st .restart [0x7E, 0x7E, 0x00] 0 4).Inv := by
  refine ⟨⟨by decide, ?_⟩, ⟨5, [1], rfl, by decide, by decide, by decide, by decide⟩,
    ⟨1, [0x7E], rfl, by decide, by decide, by decide, rfl⟩,
    .inr (.inl ⟨0, [], rfl, by decide, by decide, by decide, by decide⟩)⟩
  intro i h2 hi
  have : i = 2 := by
    have : i < 3 := hi
    omega
  subst this
  decide

theorem witness_StepKeepsInvariant : State.reset.Inv ∧ ∃ t, step (State.reset.withFetchWord 8 1) = .next t := by
  refine ⟨⟨by decide, ?_⟩, ⟨_, rfl⟩⟩
  intro i h2 hi
  exact absurd hi (Nat.not_lt_zero i)

theorem witness_StepKeepsParameters : ∃ t, step (st .receiving [0x7E, 0x7E, 1] 1 4) = .next t := ⟨_, rfl⟩

theorem witness_ChecksumIsModularSum : 4 ≤ ([0x7E, 0x7E, 0x01, 0x01] : List Byte).length := by decide

theorem witness_DecodeWithoutFrame : (st .restart v30 0).fstate ≠ .complete ∧ (st .receiving v30 1).fstate ≠ .complete :=
  by decide

/-- The longest frame that is too short (V33), and the shortest. -/
theorem witness_DecodeRejectsShortFrame :
    (let s := full (fr [0x7E, 0x7E, 0x2C, 0x04, 0x80] 41 [0xB0]);
      s.fstate = .complete ∧ s.buf.length < s.params.minFrameSize)
    ∧ (full [0x7E, 0x7E, 0x01, 0x01]).buf.length < Params.ref.minFrameSize := by decide

theorem witness_DecodeRejectsBadChecksum : (full v34).fstate = .complete
    ∧ (full v34).params.minFrameSize ≤ (full v34).buf.length ∧ (full v34).buf.getLast? = some 0xB1
    ∧ 0xB1 ≠ Codec.cks (full v34).buf := by decide +kernel

/-- V31, and V40, whose mode code is assigned to nothing. -/
theorem witness_DecodeDeliversFields :
    ((full v31).params.minFrameSize ≤ (full v31).buf.length
      ∧ (full v31).buf.getLast? = some (Codec.cks (full v31).buf))
    ∧ (let s := full (fr [0x7E, 0x7E, 0x2D, 0x04, 0xD0] 42 [0x01]);
        s.fstate = .complete ∧ s.params.minFrameSize ≤ s.buf.length ∧ s.buf.getLast? = some (Codec.cks s.buf)
          ∧ ∀ m ∈ WireMode.all, s.params.layout.modeCode.code m ≠ Codec.raw s.buf s.params.layout.mode) := by
  decide +kernel

/-- V40: whatever mode is drawn, the frame decodes. -/
theorem witness_DecodedPowerAgreesWithMode :
    ∃ c, Codec.decodeFrame Params.ref .heat .low (fr [0x7E, 0x7E, 0x2D, 0x04, 0xD0] 42 [0x01]) = .ok c :=
  ⟨{ decoded with mode := .heat }, by rfl⟩

theorem witness_DecodeIgnoresSyncBytes : (v30.set 0 0).length = v30.length ∧ (v30.set 0 0).drop 2 = v30.drop 2
    ∧ v30.set 0 0 ≠ v30 := by decide +kernel

/-- The first and the last index at which a change is seen. -/
theorem witness_SingleByteChangeDetected :
    (∃ c, Codec.decodeFrame Params.ref .auto .auto v30 = .ok c) ∧ 2 < v30.length ∧ v30[2]? ≠ some 0x2C
      ∧ 47 < v30.length ∧ v30[47]? ≠ some 0x31 :=
  ⟨⟨decoded, by rfl⟩, by decide +kernel, by decide +kernel, by decide +kernel, by decide +kernel⟩

/-- V31, whose codes are assigned; V44, whose mode code is not but whose power bit is 0; V39, whose turbo bit is 1; V40, whose
mode code is open. -/
theorem witness_DecodeIsRepeatable : (∃ t, exec .decode (full v31) = .next t)
    ∧ (full v31).params.layout.modeCode.code .cool = Codec.raw (full v31).buf (full v31).params.layout.mode
    ∧ (full v31).params.layout.fanCode.code .medium = Codec.raw (full v31).buf (full v31).params.layout.fanLevel
    ∧ (let s := full (fr [0x7E, 0x7E, 0x2D, 0x04, 0x60, 0x50] 41 [0xE1]);
        (∃ t, exec .decode s = .next t) ∧ Codec.raw s.buf s.params.layout.power = 0)
    ∧ (let s := full (fr [0x7E, 0x7E, 0x2D, 0x04, 0x81, 0x00, 0x01] 40 [0xB3]);
        (∃ t, exec .decode s = .next t) ∧ Codec.raw s.buf s.params.layout.turbo = 1)
    ∧ next? (exec .decode (full (fr [0x7E, 0x7E, 0x2D, 0x04, 0xD0] 42 [0x01]))) (fun t => t.out.decOut.isSome) = true :=
  ⟨⟨_, rfl⟩, by decide +kernel, by decide +kernel, ⟨⟨_, rfl⟩, by decide +kernel⟩, ⟨⟨_, rfl⟩, by decide +kernel⟩,
    by decide +kernel⟩

/-- Bit 2 of byte 4, and a bit of byte 46, which only a field that is not written claims. -/
theorem witness_EncodedUnclaimedBitsAreZero :
    ∀ x ∈ [(4, 2), (46, 7)], 4 ≤ x.1 ∧ x.1 + 1 < Params.ref.encFrameSize
      ∧ ∀ f ∈ FieldName.all, (Params.ref.layout.field f).dir = .both → 3 + (Params.ref.layout.field f).off = x.1 →
        ((Params.ref.layout.field f).mask <<< (Params.ref.layout.field f).shift).testBit x.2 = false := by
  decide +kernel

theorem witness_DecodeOfEncodeRecoversState : v50.valid Params.ref = true
    ∧ { v50 with targetTemp := 16, display := 7, displayUnit := 1 }.valid Params.ref = true
    ∧ { v50 with targetTemp := 31, power := false, mode := .off }.valid Params.ref = true := by decide

theorem witness_EncodedFrameIsReceived :
    let s := feeding (st .awaitingSync [] 0 48) (feeds (Codec.encodeFrame Params.ref v50) ++ []);
    s.fstate = .awaitingSync ∧ s.buf = [] ∧ s.params.encFrameSize ≤ s.params.dataMax
      ∧ s.pending = feeds (Codec.encodeFrame s.params v50) ++ [] := ⟨rfl, rfl, by decide, rfl⟩

/-- AwaitingSync with as many bytes held as the two sync bytes allow, and Restart. -/
theorem witness_LoopbackReturnsState :
    (let s := feeding (st .awaitingSync (noise 45) 0 48) [.line (Codec.encodeFrame Params.ref v50)];
      s.fstate = .awaitingSync ∧ s.buf.length + 2 < s.params.dataMax ∧ s.params.encFrameSize ≤ s.params.dataMax
        ∧ v50.valid s.params = true ∧ s.pending = [.line (Codec.encodeFrame s.params v50)])
    ∧ (let s := feeding (st .restart v30 0 48) [.line (Codec.encodeFrame Params.ref v50)];
        s.fstate = .restart ∧ s.pending = [.line (Codec.encodeFrame s.params v50)]) :=
  ⟨⟨rfl, by decide, by decide, by decide, rfl⟩, rfl, rfl⟩

theorem witness_EncodeCommutes : (∃ t, exec .nop (full v31) = .next t) ∧ (∃ t, exec (.feed 1) (full v31) = .next t)
    ∧ (∃ t, exec .restart (full v31) = .next t) ∧ ∃ t, exec .decode (full v31) = .next t :=
  ⟨⟨_, rfl⟩, ⟨_, rfl⟩, ⟨_, rfl⟩, ⟨_, rfl⟩⟩

theorem witness_NeutralStateEncodesToZeros : 4 ≤ 4 ∧ 4 + 1 < Params.ref.encFrameSize ∧ 46 + 1 < Params.ref.encFrameSize := by
  decide

/-- Each event from the operation that returns it. -/
theorem witness_EventsByOperation :
    next? (exec (.feed 9) (st .awaitingSync [1, 2, 3] 0 4)) (fun t => decide (t.out.ev = .framingOverflow)) = true
    ∧ next? (exec (.feed 9) (full v30)) (fun t => decide (t.out.ev = .feedNotAccepted)) = true
    ∧ next? (exec .decode (full [0x7E, 0x7E, 1, 1])) (fun t => decide (t.out.ev = .underlengthFrame)) = true
    ∧ next? (exec .decode (full v34)) (fun t => decide (t.out.ev = .checksumMismatch)) = true
    ∧ next? (exec .decode State.reset) (fun t => decide (t.out.ev = .noFrame)) = true
    ∧ next? (exec .decode (full v31)) (fun t => t.out.decOut.isSome) = true
    ∧ next? (exec (.encode v50) (full v31)) (fun t => t.txValid) = true := by decide +kernel

/-- Overflow in AwaitingSync and in Receiving (V8), and an event of DECODE. -/
theorem witness_EventsChangeOnlyTheirState :
    next? (exec (.frameAny ⟨1, 9, []⟩) (st .awaitingSync [1, 2, 3] 5 4)) (fun t =>
      decide (t.out.ev = .framingOverflow ∧ t.frameSize = 5)) = true
    ∧ next? (exec (.feed 5) (st .receiving [0x7E, 0x7E, 6, 1, 2, 3, 4] 2 8)) (fun t =>
      decide (t.out.ev = .framingOverflow ∧ t.frameSize = 1)) = true
    ∧ next? (exec (.frameAny ⟨1, 9, []⟩) (full [0x7E, 0x7E, 1, 1])) (fun t => decide (t.out.ev = .underlengthFrame)) = true :=
  by decide

/-- The last byte held and the first index above; a number of 8 bits on REF's 7-bit port; a cycle with `rst` = 1. -/
theorem witness_ReadPortShowsBuffer :
    let s := fun w => feeding (st .complete [0x7E, 0x7E, 1, 0x55] 0) [.cycle w];
    let shown := fun w v => next? (step (s w)) fun t => decide (t.out.rdData = v);
    shown { pins 0 0 with rdIdx := 3 } (some 0x55) = true ∧ shown { pins 0 0 with rdIdx := 4 } none = true
      ∧ (s (pins 0 0)).lenWidth = 7 ∧ shown { pins 0 0 with rdIdx := 128 + 3 } (some 0x55) = true
      ∧ shown { pins 1 0 with rst := true, rdIdx := 3 } (some 0x55) = true := by decide

theorem witness_PortCodesRoundTrip :
    { v50 with targetTemp := -512, currentTemp := 511, display := 255, displayUnit := 255 }.portable = true
    ∧ { v50 with targetTemp := 511, currentTemp := -512, display := 0 }.portable = true := by decide

theorem witness_FrameFeedsItsFirstByte :
    (st .restart [1, 2, 3, 4] 0 4).fstate = .restart
    ∧ (let s := st .awaitingSync [1, 2, 3] 0 4; s.fstate = .awaitingSync ∧ s.buf.length < s.params.dataMax)
    ∧ (let s := st .receiving [0x7E, 0x7E, 1] 1 4; s.fstate = .receiving ∧ s.buf.length < s.params.dataMax) := by decide

theorem witness_FrameWaitsForCompleteFrame : (full v31).fstate = .complete := rfl

theorem witness_LoopDecodesThenRestarts :
    (feeding (full v31) [.line [9]]).fstate = .complete ∧ (feeding (full v31) [.line [9]]).pending = .line [9] :: []
    ∧ (feeding (full v31) [.line []]).pending = .line [] :: [] := ⟨rfl, rfl, rfl⟩

theorem witness_LoopFeedsNextByte :
    let s := feeding State.reset [.line [0x7E, 0x7E, 1, 9, 8]];
    s.fstate ≠ .complete ∧ s.pending = .line (0x7E :: [0x7E, 1, 9, 8]) :: [] := by decide

/-- A report from AwaitingSync with as many bytes held as the two sync bytes allow; the shortest frame in the smallest buffer
from Restart; a frame with length byte 0. -/
theorem witness_FrameIsReceivedDecodedReleased :
    (let f : RawFrame := ⟨0x2D, 0x04, v31.drop 4⟩;
      let s := feeding (st .awaitingSync (noise 45) 9 48) [.line f.bytes];
      f.wellFormed = true ∧ f.len ≠ 0x7E ∧ f.bytes.length ≤ s.params.dataMax ∧ s.fstate = .awaitingSync
        ∧ s.buf.length + 2 < s.params.dataMax ∧ s.pending = .line f.bytes :: [])
    ∧ (let f : RawFrame := ⟨1, 1, []⟩;
        let s := feeding (st .restart [0x7E, 0x7E, 1, 9] 0 4) [.line f.bytes];
        f.wellFormed = true ∧ f.bytes.length ≤ s.params.dataMax ∧ s.fstate = .restart)
    ∧ (let f : RawFrame := ⟨0, 4, noise 255⟩;
        f.wellFormed = true ∧ f.len ≠ 0x7E ∧ f.bytes.length ≤ (st .awaitingSync [] 0 259).params.dataMax) := by
  decide +kernel

theorem witness_LengthByte7EIsNoHeader :
    (let f : RawFrame := ⟨0x7E, 1, noise 125⟩;
      let s := feeding (st .awaitingSync [] 0 4) [.line f.bytes];
      f.len = 0x7E ∧ s.fstate = .awaitingSync ∧ s.buf = [] ∧ s.pending = .line f.bytes :: [] ∧ f.cmd ≠ 0x7E
        ∧ f.wellFormed = true)
    ∧ (feeding (st .restart v30 0) [.line (RawFrame.bytes ⟨0x7E, 0x7E, noise 125⟩)]).fstate = .restart := by
  decide +kernel

theorem witness_StepRunsDecodedInstruction :
    (feeding State.reset [.cycle (pins 1 2)]).pending = .cycle (pins 1 2) :: []
    ∧ decode Params.ref (.cycle (pins 1 2)) = .ok (.feed 2, [])
    ∧ (feeding State.reset [.line [0x7E, 0x7E, 1, 1, 9]]).pending = .line [0x7E, 0x7E, 1, 1, 9] :: []
    ∧ decode Params.ref (.line [0x7E, 0x7E, 1, 1, 9]) = .ok (.frameSet ⟨1, 1, []⟩, [9])
    ∧ State.reset.pending = [] := ⟨rfl, rfl, rfl, rfl, rfl⟩

theorem witness_OperationCodesDecode : { pins 7 0 with rst := true }.rst = true ∧ (pins 0b111 0).rst = false
    ∧ (pins 0b111 0).op = 0b111 ∧ (pins 0b000 0).op = 0b000 := by decide

/-- An instruction of every family, frames of the shortest and the longest kind among them. -/
theorem witness_DecodeInvertsEncode :
    (Instr.encode { v50 with targetTemp := 511, currentTemp := -512, display := 255 }).wellFormed Params.ref = true
    ∧ (Instr.feed 0xFF).wellFormed Params.ref = true ∧ Instr.reset.wellFormed Params.ref = true
    ∧ (Instr.frameSet ⟨1, 1, []⟩).wellFormed Params.ref = true
    ∧ (Instr.frameReport ⟨255, 4, noise 254⟩).wellFormed Params.ref = true
    ∧ (Instr.frameAny ⟨0, 0xFF, noise 255⟩).wellFormed Params.ref = true := by decide +kernel

theorem witness_LineDecodesOnlyFrames : decode Params.ref (.line [0x7E, 0x7E, 0x02, 0x04, 0x06, 0x99])
    = .ok (.frameReport ⟨0x02, 0x04, [0x06]⟩, [0x99]) := by rfl

end Sys2Proof.Tests
end

section
/-! PROOFS. The scope of the model: what each cycle performs, the parameters no cycle changes, and REF. -/

namespace Sys2Proof.Machine

variable {s t : State}

/-! ### What the operations leave alone: the parameters (R7, R60) and the byte on the read port (R41) -/

theorem decodeBuffer_frame (h : s.decodeBuffer = .next t) :
    t.params = s.params ∧ t.out.rdData = s.out.rdData := by
  obtain ⟨u, hu, -, -, -, hparams, -, hrd, -⟩ := decodeBuffer_next s
  obtain rfl : u = t := Host.Outcome.next.inj (hu.symm.trans h)
  exact ⟨hparams, hrd⟩

theorem pollBytes_frame {bytes : List Byte} (h : s.pollBytes bytes = .next t) :
    t.params = s.params ∧ t.out.rdData = s.out.rdData := by
  by_cases hs : s.fstate = .complete
  · rw [pollBytes_complete hs] at h
    obtain ⟨hparams, hrd⟩ := decodeBuffer_frame h
    exact ⟨hparams, hrd⟩
  · cases bytes with
    | nil =>
      obtain rfl : s.report .none = t := by simpa [State.pollBytes, hs] using h
      exact ⟨rfl, rfl⟩
    | cons b rest =>
      rw [pollBytes_feed hs] at h
      obtain ⟨hparams, -, -, hrd, -⟩ := feedByte_frame h
      exact ⟨hparams, hrd⟩

/-- No instruction changes the parameters, nor the byte the read port sampled as its cycle began. -/
theorem exec_frame {i : Instr} (h : exec i s = .next t) :
    t.params = s.params ∧ t.out.rdData = s.out.rdData := by
  cases i with
  | nop | restart | encode | reservedOp5 | reservedOp6 | reservedOp7 | reset =>
    obtain rfl := Host.Outcome.next.inj h
    exact ⟨rfl, rfl⟩
  | feed b =>
    obtain ⟨hparams, -, -, hrd, -⟩ := feedByte_frame h
    exact ⟨hparams, hrd⟩
  | decode => exact decodeBuffer_frame h
  | frameSet f | frameReport f | frameAny f => exact pollBytes_frame (bytes := f.bytes) h

theorem step_params (h : step s = .next t) : t.params = s.params := by
  obtain ⟨hparams, -⟩ := exec_frame h
  exact hparams.trans (s.beginCycle_params s.fetch)

/-- Settles O26: `beginCycle` and every instruction keep the parameters. -/
theorem stepKeepsParameters : Obligations.StepKeepsParameters := fun _ _ => step_params

/-! ### The instruction of a cycle (R5, R40) -/

theorem rdPort_toNat (p : Params) (w : PortsIn) : (w.rdPort p).toNat = w.rdIdx % 2 ^ p.lenWidth :=
  BitVec.toNat_ofNat ..

theorem step_of_fetch {f : Fetched} (h : s.fetch = f) : step s = exec f.instr (s.beginCycle f) := by
  rw [step, h]

theorem step_cycle {w : PortsIn} {rest : List Stimulus} (h : s.pending = .cycle w :: rest) :
    step s = exec (decodeCycle w)
      { s with pending := rest, out := { s.out with rdData := s.buf[w.rdIdx % 2 ^ s.lenWidth]? } } := by
  rw [step_of_fetch (fetch_cycle h), rdPort_toNat]
  rfl

theorem step_lineFrame {bs left : List Byte} {i : Instr} {rest : List Stimulus} (h : s.pending = .line bs :: rest)
    (hd : decodeFrame s.params.cmdReport bs = .ok (i, left)) :
    step s = exec i { s with pending := .line left :: rest, out := { s.out with rdData := s.buf[0]? } } :=
  step_of_fetch (fetch_frame h hd)

theorem step_idle (h : s.pending = []) :
    step s = exec .nop { s with out := { s.out with rdData := s.buf[0]? } } := by
  rw [step_of_fetch (fetch_idle h), State.beginCycle, ← h]
  rfl

/-- Settles O55: one case per kind of stimulus, each by what the fetch gives for it. -/
theorem stepRunsDecodedInstruction : Obligations.StepRunsDecodedInstruction := by
  unfold Obligations.StepRunsDecodedInstruction
  refine ⟨fun s w i left rest h hd => ?_, fun s bs left i rest h hd => step_lineFrame h hd, fun s h => step_idle h⟩
  obtain ⟨rfl, -⟩ : decodeCycle w = i ∧ [] = left := by simpa [decode] using hd
  exact step_cycle h

/-! ### REF and the bounds on the parameters (R8, R9, R23) -/

/-- `LEN_W` of REF: 64 needs 7 bits (R23). -/
theorem lenWidth_ref : Params.ref.lenWidth = 7 := by decide

/-- Settles O60: REF's sizes and rows are its definition's; the bounds are what admissibility gives. -/
theorem referenceConfiguration : Obligations.ReferenceConfiguration := by
  unfold Obligations.ReferenceConfiguration
  refine ⟨⟨rfl, rfl, rfl, rfl, rfl, lenWidth_ref, rfl⟩, ?_, fun p => ?_⟩
  · exact ⟨rfl, rfl, rfl, rfl, rfl, rfl, rfl, rfl, rfl, rfl, rfl, rfl, rfl, rfl, rfl,
      rfl, rfl, rfl, rfl, rfl, rfl, rfl, rfl, rfl⟩
  · exact ⟨p.four_le_dataMax, p.six_le_min, p.min_le_enc, p.enc_le, p.dataMax_lt, p.lenWidth_tight⟩

end Sys2Proof.Machine
end

section
/-! PROOFS. The invariants of every reachable state (R45): which operations write the Framer's elements, and why each of
them keeps the invariants. -/

namespace Sys2Proof.Machine

variable {s t : State} {m : Memory} {x b : Byte}

/-! ### What one instruction can do to the Framer (R42) -/

theorem decodeBuffer_sameFramer (h : s.decodeBuffer = .next t) :
    s.SameFramer t ∧ t.params = s.params ∧ t.pending = s.pending := by
  obtain ⟨u, hu, hfstate, hbuf, hsize, hparams, hpending, -⟩ := decodeBuffer_next s
  obtain rfl : u = t := Host.Outcome.next.inj (hu.symm.trans h)
  exact ⟨⟨hfstate, hbuf, hsize⟩, hparams, hpending⟩

/-- A cycle of the loop writes no element of the Framer, or it is the FEED of one byte (R240). -/
theorem pollBytes_cases {bytes : List Byte} (h : s.pollBytes bytes = .next t) :
    s.SameFramer t ∨ ∃ b xs, (s.pushPending xs).feedByte b = .next t := by
  by_cases hs : s.fstate = .complete
  · rw [pollBytes_complete hs] at h
    exact .inl (decodeBuffer_sameFramer h).1
  · cases bytes with
    | nil =>
      obtain rfl : s.report .none = t := by simpa [State.pollBytes, hs] using h
      exact .inl ⟨rfl, rfl, rfl⟩
    | cons b rest =>
      rw [pollBytes_feed hs] at h
      exact .inr ⟨b, _, h⟩

/-- Only FEED, RESTART and reset write an element of the Framer (R42): every instruction keeps them all, or releases, or
clears, or feeds one byte. -/
theorem exec_cases {i : Instr} (h : exec i s = .next t) :
    s.SameFramer t ∨ s.release.SameFramer t ∨ s.clearFramer.SameFramer t
      ∨ ∃ b xs, (s.pushPending xs).feedByte b = .next t := by
  cases i with
  | nop | encode | reservedOp5 | reservedOp6 | reservedOp7 =>
    obtain rfl := Host.Outcome.next.inj h
    exact .inl ⟨rfl, rfl, rfl⟩
  | restart =>
    obtain rfl := Host.Outcome.next.inj h
    exact .inr (.inl ⟨rfl, rfl, rfl⟩)
  | reset =>
    obtain rfl := Host.Outcome.next.inj h
    exact .inr (.inr (.inl ⟨rfl, rfl, rfl⟩))
  | decode => exact .inl (decodeBuffer_sameFramer h).1
  | feed b => exact .inr (.inr (.inr ⟨b, [], h⟩))
  | frameSet f | frameReport f | frameAny f =>
    rcases pollBytes_cases (bytes := f.bytes) h with hsame | hfeed
    · exact .inl hsame
    · exact .inr (.inr (.inr hfeed))

/-! ### Buffers without a header, and the countdown of `frame_size` (R45, R114, R117) -/

theorem Memory.noHeader_nil : Memory.NoHeader [] := fun i _ hi => absurd hi (Nat.not_lt_zero i)

/-- A byte that completes no header leaves the buffer without one: a header in the longer buffer would stand in the old
one, or end in the new byte. -/
theorem Memory.noHeader_append (hm : m.NoHeader) (hb : ¬ (m.append b).endsInHeader = true) :
    (m.append b).NoHeader := by
  intro i h2 hi
  rw [Memory.append_length] at hi
  rw [m.read_append_of_lt b (show i - 2 < m.length by omega), m.read_append_of_lt b (show i - 1 < m.length by omega)]
  by_cases hlt : i < m.length
  · rw [m.read_append_of_lt b hlt]
    exact hm i h2 hlt
  · obtain rfl : i = m.length := by omega
    rw [m.read_append_last b]
    rintro ⟨hs0, hs1, hne⟩
    exact hb ((m.append_endsInHeader b).mpr ⟨h2, hs0, hs1, fun hc => hne (congrArg some hc)⟩)

theorem declaredCount_pos (x : Byte) : 0 < declaredCount x := by
  unfold declaredCount
  split_ifs with hx
  · decide
  · exact Nat.pos_of_ne_zero fun hc => hx (BitVec.eq_of_toNat_eq hc)

theorem countdown_succ (x : Byte) (n : Nat) : x - BitVec.ofNat 8 n - 1 = x - BitVec.ofNat 8 (n + 1) := by
  bv_omega

/-- The countdown from X reaches 0 at the last declared byte and not before: X bytes, or 256 for X = 0, after the first of
which it stands at 255 (R117, R125). -/
theorem countdown_eq_zero_iff {n : Nat} (h0 : 0 < n) (hn : n ≤ declaredCount x) :
    x - BitVec.ofNat 8 n = 0 ↔ n = declaredCount x := by
  have hx := x.isLt
  unfold declaredCount at hn ⊢
  split_ifs at hn ⊢ with hz
  · subst hz
    bv_omega
  · bv_omega

/-! ### Every step keeps the invariants (R45) -/

/-- The invariants speak of the Framer's elements and of `DATA_MAX` only. -/
theorem State.Inv.of_sameFramer (hinv : s.Inv) (hsame : s.SameFramer t) (hparams : t.params = s.params) : t.Inv := by
  obtain ⟨hfstate, hbuf, hsize⟩ := hsame
  simpa only [State.Inv, State.Scanning, State.Collecting, State.Whole, State.len, hfstate, hbuf, hsize, hparams]
    using hinv

theorem State.inv_of_awaitingSync (h : s.fstate = .awaitingSync) : s.Inv ↔ s.Scanning := by simp only [State.Inv, h]

theorem State.inv_of_receiving (h : s.fstate = .receiving) : s.Inv ↔ s.Collecting := by simp only [State.Inv, h]

theorem State.inv_of_complete (h : s.fstate = .complete) : s.Inv ↔ s.Whole := by simp only [State.Inv, h]

theorem State.inv_of_restart (h : s.fstate = .restart) : s.Inv ↔ s.Scanning ∨ s.Collecting ∨ s.Whole := by
  simp only [State.Inv, h]

/-- Every clear leaves an AwaitingSync that meets the invariants (R44, R113, R118). -/
theorem State.inv_of_cleared (hfstate : s.fstate = .awaitingSync) (hbuf : s.buf = []) : s.Inv := by
  have h4 := s.params.four_le_dataMax
  refine (State.inv_of_awaitingSync hfstate).mpr ⟨?_, hbuf ▸ Memory.noHeader_nil⟩
  rw [State.len, hbuf, List.length_nil]
  omega

/-- Restart, which can be entered from every state, has one of the three shapes; so has every state. -/
theorem State.Inv.shape (hinv : s.Inv) : s.Scanning ∨ s.Collecting ∨ s.Whole := by
  cases hs : s.fstate with
  | awaitingSync => exact .inl ((State.inv_of_awaitingSync hs).mp hinv)
  | receiving => exact .inr (.inl ((State.inv_of_receiving hs).mp hinv))
  | complete => exact .inr (.inr ((State.inv_of_complete hs).mp hinv))
  | restart => exact (State.inv_of_restart hs).mp hinv

/-- A release keeps the buffer, and with it the shape (R120). -/
theorem State.Inv.release (hinv : s.Inv) : s.release.Inv := (State.inv_of_restart rfl).mpr hinv.shape

/-- FEED while awaiting sync: a fresh header, an overflow, or one more byte without a header (R114, R115, R118). -/
theorem feedByte_scanning_inv (hs : s.fstate = .awaitingSync) (hscan : s.Scanning) (h : s.feedByte b = .next t) :
    t.Inv := by
  obtain ⟨hlen, hno⟩ := hscan
  have h4 := s.params.four_le_dataMax
  rw [feedByte_scanning hs hlen] at h
  obtain rfl := Host.Outcome.next.inj h
  split_ifs with hh ho
  · obtain ⟨-, -, -, hb⟩ := (s.buf.append_endsInHeader b).mp hh
    exact (State.inv_of_receiving rfl).mpr ⟨b, [], rfl, hb, h4, declaredCount_pos b, (BitVec.sub_zero b).symm⟩
  · exact State.inv_of_cleared rfl rfl
  · refine (State.inv_of_awaitingSync (by exact hs)).mpr ⟨?_, Memory.noHeader_append hno hh⟩
    simpa [State.len] using Nat.lt_of_le_of_ne hlen ho

/-- FEED while receiving: the countdown says whether the byte is the last one declared (R116 to R118). -/
theorem feedByte_receiving_inv (hs : s.fstate = .receiving) (hcol : s.Collecting) (h : s.feedByte b = .next t) :
    t.Inv := by
  obtain ⟨x, body, hbuf, hx, hlen, hcount, hsize⟩ := hcol
  have hsize' : s.frameSize - 1 = x - BitVec.ofNat 8 (body.length + 1) := by rw [hsize, countdown_succ]
  have hbuf' : s.buf.append b = Memory.header x ++ (body ++ [b]) := by simp [Memory.append, hbuf]
  have hbody' : (body ++ [b]).length = body.length + 1 := List.length_append
  rw [feedByte_receiving hs hlen] at h
  obtain rfl := Host.Outcome.next.inj h
  have hzero := countdown_eq_zero_iff (x := x) (Nat.succ_pos body.length) hcount
  rw [hsize']
  split_ifs with hz ho
  · refine (State.inv_of_complete rfl).mpr ⟨x, body ++ [b], hbuf', hx, ?_, hbody'.trans (hzero.mp hz), rfl⟩
    simpa [State.len] using hlen
  · exact State.inv_of_cleared rfl rfl
  · refine (State.inv_of_receiving (by exact hs)).mpr ⟨x, body ++ [b], hbuf', hx, ?_, ?_, hbody' ▸ rfl⟩
    · simpa [State.len] using Nat.lt_of_le_of_ne hlen ho
    · exact hbody' ▸ Nat.lt_of_le_of_ne hcount fun hc => hz (hzero.mpr hc)

theorem feedByte_inv (hinv : s.Inv) (h : s.feedByte b = .next t) : t.Inv := by
  cases hs : s.fstate with
  | awaitingSync => exact feedByte_scanning_inv hs ((State.inv_of_awaitingSync hs).mp hinv) h
  | receiving => exact feedByte_receiving_inv hs ((State.inv_of_receiving hs).mp hinv) h
  | complete =>
    rw [feedByte_complete hs] at h
    obtain rfl := Host.Outcome.next.inj h
    exact hinv.of_sameFramer ⟨rfl, rfl, rfl⟩ rfl
  | restart =>
    rw [feedByte_restart hs] at h
    exact feedByte_scanning_inv rfl ((State.inv_of_awaitingSync rfl).mp (State.inv_of_cleared rfl rfl)) h

theorem exec_inv {i : Instr} (hinv : s.Inv) (h : exec i s = .next t) : t.Inv := by
  obtain ⟨hparams, -⟩ := exec_frame h
  rcases exec_cases h with hsame | hsame | hsame | ⟨b, xs, hfeed⟩
  · exact hinv.of_sameFramer hsame hparams
  · exact hinv.release.of_sameFramer hsame hparams
  · exact (State.inv_of_cleared (s := s.clearFramer) rfl rfl).of_sameFramer hsame hparams
  · exact feedByte_inv (s := s.pushPending xs) (hinv.of_sameFramer ⟨rfl, rfl, rfl⟩ rfl) hfeed

/-- Settles O23: the cycle begins with the Framer as it was, and every instruction keeps the invariants. -/
theorem stepKeepsInvariant : Obligations.StepKeepsInvariant := fun s _ hinv h =>
  exec_inv (s := s.beginCycle s.fetch) (hinv.of_sameFramer ⟨rfl, rfl, rfl⟩ rfl) h

/-- Settles O22: reset is a clear. -/
theorem resetMeetsInvariant : Obligations.ResetMeetsInvariant := State.inv_of_cleared rfl rfl

end Sys2Proof.Machine
end

section
/-! PROOFS. The state and its ports (R20 to R45): the clauses the invariants give, the operations that write no state
element, the read port, the port codes, reset, a FEED into a full buffer, and the power of a decoded record. -/

namespace Sys2Proof

/-- A record that fits the ports reads back from them (R30; log 5). -/
theorem ClimateState.toState_toPorts {c : ClimateState} (h : c.portable = true) : c.toPorts.toState = c := by
  simp only [ClimateState.portable, Bool.and_eq_true, decide_eq_true_eq] at h
  obtain ⟨⟨⟨⟨⟨htl, hth⟩, hcl⟩, hch⟩, hd⟩, hu⟩ := h
  have hdisplay : c.display % 2 ^ 8 = c.display := Nat.mod_eq_of_lt (by omega)
  have hunit : c.displayUnit % 2 ^ 8 = c.displayUnit := Nat.mod_eq_of_lt (by omega)
  simp only [ClimateState.toPorts, ClimatePorts.toState, Mode.ofPort_portCode, Fan.ofPort_portCode,
    Swing.ofPort_portBit, temperature_port htl hth, temperature_port hcl hch, BitVec.toNat_ofNat, hdisplay, hunit]

/-- `rst` = 1 overrides `op` (R44). -/
theorem decodeCycle_of_rst {w : PortsIn} (h : w.rst = true) : decodeCycle w = .reset := by
  simp only [decodeCycle, h, if_true]

end Sys2Proof

namespace Sys2Proof.Machine

variable {s t : State}

/-! ### What the invariants say of a header and the bytes after it (R45) -/

/-- `buf` is a header with third byte `x` and `body` after it: the length and the header bytes, as R45 lists them. -/
theorem len_and_header_bytes {x : Byte} {body : List Byte} (h : s.buf = Memory.header x ++ body) :
    s.len = 3 + body.length ∧ s.buf[0]? = some 0x7E ∧ s.buf[1]? = some 0x7E ∧ s.buf[2]? = some x := by
  rw [State.len, h]
  exact ⟨List.length_append, rfl, rfl, rfl⟩

theorem State.Collecting.clauses (h : s.Collecting) :
    3 ≤ s.len ∧ s.len < s.params.dataMax ∧ s.buf[0]? = some 0x7E ∧ s.buf[1]? = some 0x7E
      ∧ ∃ x, s.buf[2]? = some x ∧ x ≠ 0x7E ∧ s.frameSize = x - BitVec.ofNat 8 (s.len - 3)
        ∧ (3 < s.len → s.frameSize ≠ 0) := by
  obtain ⟨x, body, hbuf, hx, hmax, hcount, hsize⟩ := h
  obtain ⟨hlen, h0, h1, h2⟩ := len_and_header_bytes hbuf
  have hbody : s.len - 3 = body.length := by omega
  refine ⟨by omega, hmax, h0, h1, x, h2, hx, hbody ▸ hsize, fun hlt hzero => ?_⟩
  have hdone := (countdown_eq_zero_iff (by omega) hcount.le).mp (hsize ▸ hzero)
  omega

theorem State.Whole.clauses (h : s.Whole) :
    s.frameSize = 0 ∧ 4 ≤ s.len ∧ s.buf[0]? = some 0x7E ∧ s.buf[1]? = some 0x7E
      ∧ ∃ x, s.buf[2]? = some x ∧ x ≠ 0x7E ∧ (x ≠ 0 → s.len = 3 + x.toNat) ∧ (x = 0 → s.len = 259) := by
  obtain ⟨x, body, hbuf, hx, -, hcount, hsize⟩ := h
  obtain ⟨hlen, h0, h1, h2⟩ := len_and_header_bytes hbuf
  have hpos := declaredCount_pos x
  refine ⟨hsize, by omega, h0, h1, x, h2, hx, fun hne => ?_, fun hz => ?_⟩
  · rw [hlen, hcount, declaredCount, if_neg hne]
  · rw [hlen, hcount, declaredCount, if_pos hz]

theorem State.Inv.len_le (hinv : s.Inv) : s.len ≤ s.params.dataMax := by
  rcases hinv.shape with ⟨hlen, -⟩ | ⟨-, -, -, -, hlen, -⟩ | ⟨-, -, -, -, hlen, -⟩
  · exact hlen.le
  · exact hlen.le
  · exact hlen

/-- Settles O25: in each state the invariant is one shape, and each shape gives its clauses. -/
theorem invariantGivesSpecClauses : Obligations.InvariantGivesSpecClauses := fun _ hinv =>
  ⟨hinv.len_le, fun hs => (State.inv_of_awaitingSync hs).mp hinv,
    fun hs => ((State.inv_of_receiving hs).mp hinv).clauses, fun hs => ((State.inv_of_complete hs).mp hinv).clauses⟩

/-! ### The operations that write no state element (R42) -/

/-- Settles O13: DECODE by its frame, the others by their one next state, which reports a result only. -/
theorem codecAndNopKeepFramer : Obligations.CodecAndNopKeepFramer := by
  unfold Obligations.CodecAndNopKeepFramer
  intro i s t h hi
  cases i with
  | decode =>
    obtain ⟨hsame, hparams, hpending⟩ := decodeBuffer_sameFramer h
    exact ⟨hsame, hparams, hpending, fun hne => absurd rfl hne⟩
  | nop | encode | reservedOp5 | reservedOp6 | reservedOp7 =>
    obtain rfl := Host.Outcome.next.inj h
    exact ⟨⟨rfl, rfl, rfl⟩, rfl, rfl, fun _ => rfl⟩
  | feed | restart | reset | frameSet | frameReport | frameAny => simp at hi

/-! ### The read port (R40, R41) -/

/-- The byte sampled as a cycle begins stands on the port when it ends, whatever the operation. -/
theorem step_rdData {w : PortsIn} {rest : List Stimulus} (hp : s.pending = .cycle w :: rest)
    (h : step s = .next t) : t.out.rdData = s.buf[w.rdIdx % 2 ^ s.lenWidth]? := by
  rw [step_cycle hp] at h
  obtain ⟨-, hrd⟩ := exec_frame h
  exact hrd

/-- Settles O47: the port shows the pre-state's buffer at the index, and no byte beyond its end. -/
theorem readPortShowsBuffer : Obligations.ReadPortShowsBuffer := fun _ _ _ _ hp h =>
  ⟨fun hi => (step_rdData hp h).trans (List.getElem?_eq_getElem hi),
    fun hi => (step_rdData hp h).trans (List.getElem?_eq_none hi)⟩

/-! ### The port codes (R21, R30, R200) -/

/-- Settles O48: the round trip, and the tables of codes. -/
theorem portCodesRoundTrip : Obligations.PortCodesRoundTrip := by
  unfold Obligations.PortCodesRoundTrip
  exact ⟨fun _ => ClimateState.toState_toPorts, by decide, by decide, by decide, by decide, by decide⟩

/-! ### Reset (R44, R230) -/

/-- Settles O1: the values are those of the definition. -/
theorem resetHoldsSpecValues : Obligations.ResetHoldsSpecValues := ⟨rfl, rfl, rfl, rfl, rfl, rfl, rfl⟩

/-- RESET clears the Framer and reports None. -/
theorem exec_reset (s : State) : exec .reset s = .next (s.clearFramer.report .none) := rfl

/-- Settles O3: the clear and the report, written out. -/
theorem resetClearsFramer : Obligations.ResetClearsFramer := exec_reset

/-- Settles O2: the cycle decodes to RESET, whose next state is the witness. -/
theorem resetPinOverridesOperation : Obligations.ResetPinOverridesOperation := by
  unfold Obligations.ResetPinOverridesOperation
  intro s w rest hp hrst
  have hstep := step_cycle hp
  rw [decodeCycle_of_rst hrst, exec_reset] at hstep
  exact ⟨_, hstep, rfl, rfl, rfl, rfl, rfl, rfl, rfl, rfl, rfl, rfl, rfl, rfl⟩

/-! ### FEED into a full buffer (R22) -/

/-- A frame's first byte is fed while no frame is complete (R240), and finds the buffer full. -/
theorem pollBytes_full {b : Byte} {bytes : List Byte} (hs : s.fstate = .awaitingSync ∨ s.fstate = .receiving)
    (hl : s.params.dataMax ≤ s.buf.length) : s.pollBytes (b :: bytes) = .fault .appendOutsideBuffer := by
  have hne : s.fstate ≠ .complete := by rcases hs with hs | hs <;> simp [hs]
  rw [pollBytes_feed hne]
  exact feedByte_full hs hl

/-- Settles O11: FEED stops, and so does each frame kind at its first sync byte. -/
theorem feedOnFullBufferStops : Obligations.FeedOnFullBufferStops := fun _ hs hl =>
  ⟨fun _ => feedByte_full hs hl, fun _ => ⟨pollBytes_full hs hl, pollBytes_full hs hl, pollBytes_full hs hl⟩⟩

namespace Codec

/-! ### The power and the mode of a decoded record (R31, R145) -/

theorem modeOfWire_ne_off (m : WireMode) : modeOfWire m ≠ .off := by cases m <;> decide

theorem modeOfWire_ne_heatCool (m : WireMode) : modeOfWire m ≠ .heatCool := by cases m <;> decide

/-- A frame that decodes passed both checks, and its record is the extracted one (R141 to R143). -/
theorem decodeFrame_eq_ok_iff {p : Params} {m : WireMode} {v : WireFan} {frame : List Byte} {c : ClimateState} :
    decodeFrame p m v frame = .ok c ↔
      p.minFrameSize ≤ frame.length ∧ some (cks frame) = frame.getLast? ∧ extract p.layout m v frame = c := by
  unfold decodeFrame
  split_ifs with hl hc
  · exact ⟨nofun, fun ⟨hmin, _⟩ => absurd hl hmin.not_gt⟩
  · exact ⟨nofun, fun ⟨_, hsum, _⟩ => absurd hsum hc⟩
  · exact ⟨fun h => ⟨Nat.le_of_not_lt hl, not_not.mp hc, Except.ok.inj h⟩, fun ⟨_, _, he⟩ => congrArg _ he⟩

/-- A one-bit field is 0 or 1 (R84 (f)). -/
theorem raw_flag_le_one (p : Params) (frame : List Byte) {f : FieldName} (hf : f.isFlag = true) :
    raw frame (p.layout.field f) ≤ 1 :=
  p.flag_mask hf ▸ raw_le frame (p.layout.field f)

/-- Settles O32: the power bit is 0 or 1, and gates the mode; a mode it lets through is a transmitted one. -/
theorem decodedPowerAgreesWithMode : Obligations.DecodedPowerAgreesWithMode := by
  unfold Obligations.DecodedPowerAgreesWithMode
  intro p m v frame c h
  obtain ⟨-, -, rfl⟩ := decodeFrame_eq_ok_iff.mp h
  have hbit : raw frame p.layout.power ≤ 1 := raw_flag_le_one p frame (f := .power) rfl
  by_cases hoff : raw frame p.layout.power = 0
  · simp [extract, decodedMode, hoff]
  · have hon : raw frame p.layout.power = 1 := by omega
    simp [extract, decodedMode, hon, modeOfWire_ne_off, modeOfWire_ne_heatCool]

end Codec

end Sys2Proof.Machine
end

section
/-! PROOFS. Memory rules (R50 to R61): which instructions keep the buffer, why no append falls outside it, what a second
DECODE of the same buffer returns, and why ENCODE commutes with the other operations. -/

namespace Sys2Proof.Machine

variable {s t : State}

/-! ### The handshake on the buffer (R59, R234) -/

/-- In Complete no instruction takes a byte; elsewhere only FEED and the frames do. An instruction that takes none and is
not RESET keeps the buffer and the countdown. -/
theorem exec_keeps_buffer {i : Instr} (h : exec i s = .next t) (hreset : i ≠ .reset)
    (hquiet : s.fstate = .complete
      ∨ (∀ b, i ≠ .feed b) ∧ ∀ f, i ≠ .frameSet f ∧ i ≠ .frameReport f ∧ i ≠ .frameAny f) :
    t.buf = s.buf ∧ t.frameSize = s.frameSize := by
  cases i with
  | nop | restart | encode | reservedOp5 | reservedOp6 | reservedOp7 =>
    obtain rfl := Host.Outcome.next.inj h
    exact ⟨rfl, rfl⟩
  | reset => exact absurd rfl hreset
  | decode =>
    obtain ⟨⟨-, hbuf, hsize⟩, -⟩ := decodeBuffer_sameFramer h
    exact ⟨hbuf, hsize⟩
  | feed b =>
    have hs : s.fstate = .complete := hquiet.resolve_right fun ⟨hno, _⟩ => hno b rfl
    obtain rfl := Host.Outcome.next.inj ((feedByte_complete hs).symm.trans h)
    exact ⟨rfl, rfl⟩
  | frameSet f | frameReport f | frameAny f =>
    have hs : s.fstate = .complete := hquiet.resolve_right fun ⟨_, hno⟩ => by simpa using hno f
    obtain ⟨⟨-, hbuf, hsize⟩, -⟩ := decodeBuffer_sameFramer ((pollBytes_complete (bytes := f.bytes) hs).symm.trans h)
    exact ⟨hbuf, hsize⟩

/-- Settles O14: in Complete no instruction takes a byte, and in Restart those that would are excluded. -/
theorem handshakeKeepsBuffer : Obligations.HandshakeKeepsBuffer := fun _ _ _ h =>
  ⟨fun hs hreset => exec_keeps_buffer h hreset (.inl hs),
    fun _ hreset hfeed hframe => exec_keeps_buffer h hreset (.inr ⟨hfeed, hframe⟩)⟩

/-! ### Every append falls inside the buffer (R56, R90) -/

/-- The invariants leave room for the byte in AwaitingSync and in Receiving, the two states in which a FEED appends to the
bytes held; Complete appends none, and Restart clears first. -/
theorem feedByte_next (hinv : s.Inv) (b : Byte) : ∃ t, s.feedByte b = .next t := by
  cases hs : s.fstate with
  | awaitingSync =>
    obtain ⟨hlen, -⟩ := (State.inv_of_awaitingSync hs).mp hinv
    exact ⟨_, feedByte_scanning hs hlen⟩
  | receiving =>
    obtain ⟨-, -, -, -, hlen, -⟩ := (State.inv_of_receiving hs).mp hinv
    exact ⟨_, feedByte_receiving hs hlen⟩
  | complete => exact ⟨_, feedByte_complete hs⟩
  | restart =>
    have hroom : 0 < s.params.dataMax := Nat.lt_of_lt_of_le (by decide) s.params.four_le_dataMax
    rw [feedByte_restart hs]
    exact ⟨_, feedByte_scanning rfl hroom⟩

theorem pollBytes_next (hinv : s.Inv) (bytes : List Byte) : ∃ t, s.pollBytes bytes = .next t := by
  by_cases hs : s.fstate = .complete
  · obtain ⟨t, ht, -⟩ := decodeBuffer_next (s.pushPending [.cycle restartPins, .line bytes])
    exact ⟨t, (pollBytes_complete hs).trans ht⟩
  · cases bytes with
    | nil => exact ⟨s.report .none, by simp [State.pollBytes, hs]⟩
    | cons b rest =>
      rw [pollBytes_feed hs]
      exact feedByte_next (s := s.pushPending [.line rest]) (hinv.of_sameFramer ⟨rfl, rfl, rfl⟩ rfl) b

/-- Only an append can stop an instruction, and only FEED and the frames append. -/
theorem exec_next (hinv : s.Inv) (i : Instr) : ∃ t, exec i s = .next t := by
  cases i with
  | nop | restart | encode | reservedOp5 | reservedOp6 | reservedOp7 | reset => exact ⟨_, rfl⟩
  | feed b => exact feedByte_next hinv b
  | decode =>
    obtain ⟨t, ht, -⟩ := decodeBuffer_next s
    exact ⟨t, ht⟩
  | frameSet f | frameReport f | frameAny f => exact pollBytes_next hinv f.bytes

/-- Settles O24: the cycle begins with the Framer as it was, and every instruction answers. -/
theorem invariantStateNeverStops : Obligations.InvariantStateNeverStops := fun s hinv =>
  exec_next (s := s.beginCycle s.fetch) (hinv.of_sameFramer ⟨rfl, rfl, rfl⟩ rfl) s.fetch.instr

/-! ### A second DECODE (R55, R145, R146, R149) -/

namespace Codec

variable {p : Params} {frame : List Byte}

/-- The free mode is not read where the power bit is 0 or the code is assigned (R145). -/
theorem decodedMode_of_settled
    (h : raw frame p.layout.power = 0 ∨ ∃ m, p.layout.modeCode.code m = raw frame p.layout.mode)
    (free free' : WireMode) : decodedMode p.layout free frame = decodedMode p.layout free' frame := by
  rcases h with hoff | ⟨m, hm⟩
  · simp only [decodedMode, hoff, if_true]
  · simp only [decodedMode, ← hm, modeOfCode_code, Option.getD_some]

/-- The free level is not read where the turbo bit is 1 or the code is assigned (R146). -/
theorem decodedFan_of_settled
    (h : raw frame p.layout.turbo = 1 ∨ ∃ v, p.layout.fanCode.code v = raw frame p.layout.fanLevel)
    (free free' : WireFan) : decodedFan p.layout free frame = decodedFan p.layout free' frame := by
  rcases h with hturbo | ⟨v, hv⟩
  · simp only [decodedFan, hturbo, if_true]
  · simp only [decodedFan, ← hv, fanOfCode_code, Option.getD_some]

/-- Where both are settled, the record is the frame's alone. -/
theorem extract_of_settled
    (hm : raw frame p.layout.power = 0 ∨ ∃ m, p.layout.modeCode.code m = raw frame p.layout.mode)
    (hv : raw frame p.layout.turbo = 1 ∨ ∃ v, p.layout.fanCode.code v = raw frame p.layout.fanLevel)
    (m m' : WireMode) (v v' : WireFan) : extract p.layout m v frame = extract p.layout m' v' frame := by
  rw [extract, extract, decodedMode_of_settled hm m m', decodedFan_of_settled hv v v']

end Codec

/-- The Framer and the parameters decide whether DECODE fails, and with which event, or gives a record; the draws fix only
what the record leaves open (R150). -/
theorem decodeBuffer_cases (s : State) :
    (∃ e, ∀ u, s.SameFramer u → u.params = s.params → u.decodeBuffer = .next (u.report e))
      ∨ ∀ u, s.SameFramer u → u.params = s.params → u.decodeBuffer = .next (u.countDraw.reportDecoded
          (Codec.extract s.params.layout (Config.freeMode u.draws) (Config.freeFan u.draws) s.buf)) := by
  by_cases hs : s.fstate = .complete
  · by_cases hl : s.buf.length < s.params.minFrameSize
    · exact .inl ⟨_, fun u ⟨hfstate, hbuf, _⟩ hp => decodeBuffer_underlength (hfstate ▸ hs) (hbuf ▸ hp ▸ hl)⟩
    · have hmin : s.params.minFrameSize ≤ s.buf.length := Nat.le_of_not_lt hl
      by_cases hc : some (Codec.cks s.buf) = s.buf.getLast?
      · refine .inr fun u ⟨hfstate, hbuf, _⟩ hp => ?_
        rw [← hbuf, ← hp] at hmin ⊢
        exact decodeBuffer_ok (hfstate ▸ hs) hmin (hbuf ▸ hc)
      · exact .inl ⟨_, fun u ⟨hfstate, hbuf, _⟩ hp =>
          decodeBuffer_mismatch (hfstate ▸ hs) (hbuf ▸ hp ▸ hmin) (hbuf ▸ hc)⟩
  · exact .inl ⟨_, fun u ⟨hfstate, _⟩ _ => decodeBuffer_noFrame (hfstate ▸ hs)⟩

/-- Settles O35: DECODE keeps what decides its outcome, so the second has the first one's; two records of one frame differ
only in what the draws fix. -/
theorem decodeIsRepeatable : Obligations.DecodeIsRepeatable := by
  unfold Obligations.DecodeIsRepeatable
  intro s t h l settledMode settledFan
  rcases decodeBuffer_cases s with ⟨e, hreport⟩ | hrecord
  · obtain rfl := Host.Outcome.next.inj ((hreport s ⟨rfl, rfl, rfl⟩ rfl).symm.trans h)
    refine ⟨_, hreport (s.report e) ⟨rfl, rfl, rfl⟩ rfl, rfl, ⟨rfl, rfl, rfl⟩, rfl, ?_, fun _ _ => rfl⟩
    rintro _ _ ⟨⟩
  · obtain rfl := Host.Outcome.next.inj ((hrecord s ⟨rfl, rfl, rfl⟩ rfl).symm.trans h)
    refine ⟨_, hrecord (s.countDraw.reportDecoded _) ⟨rfl, rfl, rfl⟩ rfl, rfl, ⟨rfl, rfl, rfl⟩, rfl, ?_, ?_⟩
    · rintro _ _ ⟨⟩ ⟨⟩
      exact ⟨rfl, fun hm => Codec.decodedMode_of_settled hm _ _, fun hv => Codec.decodedFan_of_settled hv _ _⟩
    · intro hm hv
      rw [State.reportDecoded_out, State.reportDecoded_out,
        Codec.extract_of_settled hm hv _ (Config.freeMode s.draws) _ (Config.freeFan s.draws)]
      rfl

/-! ### ENCODE beside the other operations (R61) -/

section Outputs

variable (frame : List Byte) (b : Byte)

/-! No operation reads the outputs ENCODE sets, and each one ends by setting them again: the phases of FEED carry the
frame along, and the report at the end drops it. -/

theorem State.lazyClear_reportFrame : (s.reportFrame frame).lazyClear = s.lazyClear.reportFrame frame := by
  simp only [State.lazyClear, apply_ite (State.reportFrame frame)]
  rfl

theorem State.appendByte_reportFrame : (s.reportFrame frame).appendByte b = (s.appendByte b).reportFrame frame := rfl

theorem State.advance_reportFrame : (s.reportFrame frame).advance b = (s.advance b).reportFrame frame := by
  simp only [State.advance, apply_ite (State.reportFrame frame)]
  rfl

theorem State.checkOverflow_reportFrame : (s.reportFrame frame).checkOverflow = s.checkOverflow := rfl

theorem feedByte_reportFrame : (s.reportFrame frame).feedByte b = s.feedByte b := by
  simp only [State.feedByte, State.lazyClear_reportFrame, State.appendByte_reportFrame, State.advance_reportFrame,
    State.checkOverflow_reportFrame]
  rfl

theorem decodeBuffer_reportFrame : (s.reportFrame frame).decodeBuffer = s.decodeBuffer := by
  have hsame : s.SameFramer (s.reportFrame frame) := ⟨rfl, rfl, rfl⟩
  rcases decodeBuffer_cases s with ⟨e, hreport⟩ | hrecord
  · exact (hreport _ hsame rfl).trans (hreport s ⟨rfl, rfl, rfl⟩ rfl).symm
  · exact (hrecord _ hsame rfl).trans (hrecord s ⟨rfl, rfl, rfl⟩ rfl).symm

theorem pollBytes_reportFrame (bytes : List Byte) : (s.reportFrame frame).pollBytes bytes = s.pollBytes bytes := by
  by_cases hs : s.fstate = .complete
  · rw [pollBytes_complete hs, pollBytes_complete (s := s.reportFrame frame) hs]
    exact decodeBuffer_reportFrame (s := s.pushPending [.cycle restartPins, .line bytes]) frame
  · cases bytes with
    | nil => simp only [State.pollBytes, State.reportFrame_fstate, hs, if_false]; rfl
    | cons b rest =>
      rw [pollBytes_feed hs, pollBytes_feed (s := s.reportFrame frame) hs]
      exact feedByte_reportFrame (s := s.pushPending [.line rest]) frame b

/-- A frame standing on the outputs makes no difference to the next instruction. -/
theorem exec_reportFrame (i : Instr) : exec i (s.reportFrame frame) = exec i s := by
  cases i with
  | nop | restart | encode | reservedOp5 | reservedOp6 | reservedOp7 | reset => rfl
  | feed b => exact feedByte_reportFrame frame b
  | decode => exact decodeBuffer_reportFrame frame
  | frameSet f | frameReport f | frameAny f => exact pollBytes_reportFrame frame f.bytes

end Outputs

theorem exec_encode (c : ClimateState) (s : State) :
    exec (.encode c) s = .next (s.reportFrame (Codec.encodeFrame s.params c)) := rfl

/-- Settles O43: the other operation answers the same next state after ENCODE as without it, and keeps the parameters, which
are all ENCODE reads. -/
theorem encodeCommutes : Obligations.EncodeCommutes := by
  unfold Obligations.EncodeCommutes
  intro c o s t _ h
  obtain ⟨hparams, -⟩ := exec_frame h
  refine ⟨_, t, _, exec_encode c s, (exec_reportFrame _ o).trans h, exec_encode c t, rfl, ?_, rfl⟩
  rw [State.reportFrame_out, State.reportFrame_out, hparams]

end Sys2Proof.Machine
end

section
/-! PROOFS. The encoding (R71 to R95): what the decoder makes of the pins and of the bytes on the line, the frames as the
reference loop takes them in, and which bits of an encoded frame are 0. -/

namespace Sys2Proof

variable {cmdReport : Byte} {p : Params} {f : RawFrame} {w : PortsIn}

/-! ### The pins of a cycle (R44, R71) -/

/-- Settles O56: `rst` overrides `op`; without it each of the eight codes selects its own branch. -/
theorem operationCodesDecode : Obligations.OperationCodesDecode := by
  unfold Obligations.OperationCodesDecode
  refine fun w => ⟨decodeCycle_of_rst, fun hrst => ?_⟩
  refine ⟨?_, ?_, ?_, ?_, ?_, ?_, ?_, ?_⟩ <;> intro hop <;> simp [decodeCycle, hrst, hop]

/-- Settles O57: each word is decoded by computation. -/
theorem tableWordsDecode : Obligations.TableWordsDecode := by
  unfold Obligations.TableWordsDecode
  decide

/-! ### The frame kinds (R76) -/

theorem frameKind_of_set (h : f.cmd = cmdSet) : frameKind cmdReport f = .frameSet f := if_pos h

theorem frameKind_of_report (hset : f.cmd ≠ cmdSet) (h : f.cmd = cmdReport) : frameKind cmdReport f = .frameReport f :=
  (if_neg hset).trans (if_pos h)

theorem frameKind_of_any (hset : f.cmd ≠ cmdSet) (hreport : f.cmd ≠ cmdReport) : frameKind cmdReport f = .frameAny f :=
  (if_neg hset).trans (if_neg hreport)

theorem frameKind_cases (cmdReport : Byte) (f : RawFrame) :
    frameKind cmdReport f = .frameSet f ∨ frameKind cmdReport f = .frameReport f
      ∨ frameKind cmdReport f = .frameAny f := by
  unfold frameKind
  split_ifs <;> simp

/-- The command byte selects a kind that is well-formed when the frame has its length. -/
theorem frameKind_wellFormed (h : f.wellFormed = true) : (frameKind p.cmdReport f).wellFormed p = true := by
  unfold frameKind
  split_ifs with hset hreport
  · simp [Instr.wellFormed, h, hset]
  · simp [Instr.wellFormed, h, hreport]
  · simp [Instr.wellFormed, h, hset, hreport]

theorem encode_frameKind (cmdReport : Byte) (f : RawFrame) : encode (frameKind cmdReport f) = .line f.bytes := by
  rcases frameKind_cases cmdReport f with h | h | h <;> rw [h] <;> rfl

/-! ### Bytes on the line (R73, R74) -/

/-- Bytes decode to the frame they begin with, and to nothing else. -/
theorem decodeFrame_eq_ok_iff {bs left : List Byte} {i : Instr} :
    decodeFrame cmdReport bs = .ok (i, left) ↔
      ∃ f : RawFrame, f.wellFormed = true ∧ bs = f.bytes ++ left ∧ i = frameKind cmdReport f := by
  constructor
  · intro h
    match bs with
    | [] | [_] | [_, _] | [_, _, _] => simp [decodeFrame] at h
    | s0 :: s1 :: l :: c :: rest =>
      simp only [decodeFrame] at h
      split_ifs at h with hsync hlen
      obtain ⟨rfl, rfl⟩ := hsync
      obtain ⟨rfl, rfl⟩ := Prod.mk.inj (Except.ok.inj h)
      have hge := frameLength_ge l
      have hbody : (rest.take (frameLength l - 4)).length + 4 = frameLength l := by
        rw [List.length_take]; omega
      exact ⟨⟨l, c, _⟩, (RawFrame.wellFormed_iff _).mpr hbody, by simp [RawFrame.bytes], rfl⟩
  · rintro ⟨f, hf, rfl, rfl⟩
    exact decodeFrame_bytes cmdReport f left hf

/-- A whole frame and nothing after it decodes to its kind. -/
theorem decode_line_bytes (p : Params) (h : f.wellFormed = true) :
    decode p (.line f.bytes) = .ok (frameKind p.cmdReport f, []) :=
  decodeFrame_eq_ok_iff.mpr ⟨f, h, (List.append_nil _).symm, rfl⟩

/-- Settles O58: a cycle decodes by its op code, to the operand its port carries; a frame decodes to the kind of its
command byte, which for a well-formed instruction is its own. -/
theorem decodeInvertsEncode : Obligations.DecodeInvertsEncode := by
  unfold Obligations.DecodeInvertsEncode
  intro p i h
  cases i with
  | nop | feed | restart | decode | reservedOp5 | reservedOp6 | reservedOp7 | reset => rfl
  | encode c =>
    change Except.ok (Instr.encode c.toPorts.toState, []) = _
    rw [ClimateState.toState_toPorts h]
  | frameSet f =>
    simp only [Instr.wellFormed, Bool.and_eq_true, decide_eq_true_eq] at h
    obtain ⟨hlen, hset⟩ := h
    rw [encode, decode_line_bytes p hlen, frameKind_of_set hset]
  | frameReport f =>
    simp only [Instr.wellFormed, Bool.and_eq_true, decide_eq_true_eq] at h
    obtain ⟨hlen, hreport⟩ := h
    have hset : f.cmd ≠ cmdSet := hreport ▸ p.cmdReport_ne_cmdSet
    rw [encode, decode_line_bytes p hlen, frameKind_of_report hset hreport]
  | frameAny f =>
    simp only [Instr.wellFormed, Bool.and_eq_true, decide_eq_true_eq] at h
    obtain ⟨⟨hlen, hset⟩, hreport⟩ := h
    rw [encode, decode_line_bytes p hlen, frameKind_of_any hset hreport]

/-- Settles O59: the frame the bytes begin with has its length, and its kind is one of the three. -/
theorem lineDecodesOnlyFrames : Obligations.LineDecodesOnlyFrames := by
  unfold Obligations.LineDecodesOnlyFrames
  intro p bs left i h
  obtain ⟨f, hlen, hbytes, rfl⟩ := decodeFrame_eq_ok_iff.mp h
  exact ⟨frameKind_wellFormed hlen, f, frameKind_cases _ f, hbytes, encode_frameKind _ f⟩

/-! ### The direction of a field (R84) -/

/-- R84 (g): the layout gives each field the direction its name prescribes. -/
theorem Params.field_dir (p : Params) (f : FieldName) : (p.layout.field f).dir = f.direction := by
  have h := p.layout_wellFormed
  simp only [Layout.wellFormed, Bool.and_eq_true, List.all_eq_true, decide_eq_true_eq] at h
  obtain ⟨-, hdir⟩ := h
  exact hdir f f.mem_all

end Sys2Proof

namespace Sys2Proof.Machine

variable {s : State}

/-! ### The reserved codes (R72) -/

/-- Settles O5: each of the three is the report of None, as NOP is. -/
theorem reservedCodesActAsNop : Obligations.ReservedCodesActAsNop := fun _ => ⟨rfl, rfl, rfl, rfl⟩

/-! ### Frames and bytes taken in by the reference loop (R94, R240) -/

/-- A frame of any kind is a cycle of the loop with its bytes on the line (R76). -/
theorem exec_frameKind (cmdReport : Byte) (f : RawFrame) (s : State) :
    exec (frameKind cmdReport f) s = s.pollBytes f.bytes := by
  rcases frameKind_cases cmdReport f with h | h | h <;> rw [h] <;> rfl

/-- From Restart a FEED finds the buffer cleared; elsewhere it answers where there is room for the byte (R112, R113). -/
theorem feedByte_next_of_room (b : Byte)
    (h : s.fstate = .restart ∨ (s.fstate = .awaitingSync ∨ s.fstate = .receiving) ∧ s.buf.length < s.params.dataMax) :
    ∃ t, s.feedByte b = .next t := by
  rcases h with hs | ⟨hs | hs, hroom⟩
  · have hempty : 0 < s.params.dataMax := Nat.lt_of_lt_of_le (by decide) s.params.four_le_dataMax
    rw [feedByte_restart hs]
    exact ⟨_, feedByte_scanning rfl hempty⟩
  · exact ⟨_, feedByte_scanning hs hroom⟩
  · exact ⟨_, feedByte_receiving hs hroom⟩

/-- Settles O49: outside Complete each kind feeds the first sync byte, for which there is room. -/
theorem frameFeedsItsFirstByte : Obligations.FrameFeedsItsFirstByte := by
  unfold Obligations.FrameFeedsItsFirstByte
  intro f s h
  have hne : s.fstate ≠ .complete := by rcases h with hs | ⟨hs | hs, -⟩ <;> simp [hs]
  have hpoll : s.pollBytes f.bytes = _ := pollBytes_feed hne
  obtain ⟨t, ht⟩ := feedByte_next_of_room (s := s.pushPending [.line f.bytes.tail]) sync h
  exact ⟨t, ht, hpoll.trans ht, hpoll.trans ht, hpoll.trans ht⟩

/-- Settles O50: in Complete each kind is the DECODE of the loop, which answers and writes no state element. -/
theorem frameWaitsForCompleteFrame : Obligations.FrameWaitsForCompleteFrame := by
  unfold Obligations.FrameWaitsForCompleteFrame
  intro f s hs
  have hpoll := pollBytes_complete (bytes := f.bytes) hs
  obtain ⟨t, ht, hfstate, hbuf, hsize, -⟩ := decodeBuffer_next (s.pushPending [.cycle restartPins, .line f.bytes])
  exact ⟨t, ht, hpoll.trans ht, hpoll.trans ht, hpoll.trans ht, hfstate, hbuf, hsize⟩

/-- Settles O52: bytes that begin a frame are fed as the frame's first byte, with its other bytes and those after it left
as two entries of the line; other bytes are fed one by one. -/
theorem loopFeedsNextByte : Obligations.LoopFeedsNextByte := by
  unfold Obligations.LoopFeedsNextByte
  intro s b bs rest hs hp
  cases hd : decodeFrame s.params.cmdReport (b :: bs) with
  | error e => exact ⟨[bs], by simp, step_of_fetch (fetch_noise hp hd hs)⟩
  | ok r =>
    obtain ⟨i, left⟩ := r
    obtain ⟨f, -, hbytes, rfl⟩ := decodeFrame_eq_ok_iff.mp hd
    obtain ⟨rfl, rfl⟩ := List.cons.inj hbytes
    refine ⟨[f.bytes.tail, left], by simp [RawFrame.bytes], ?_⟩
    rw [step_lineFrame hp hd, exec_frameKind]
    exact pollBytes_feed hs

namespace Codec

/-! ### The bits of an encoded frame (R82, R91, R171) -/

/-- `put` sets no bit its field does not claim. -/
theorem put_getLsbD_of_unclaimed (frame : List Byte) (f : Field) (v : Int) {i k : Nat}
    (h : fieldIndex f = i → f.bits.testBit k = false) :
    ((put frame f v).getD i 0).getLsbD k = (frame.getD i 0).getLsbD k := by
  by_cases hi : fieldIndex f = i
  · have hzero : (BitVec.ofNat 8 ((lo8 v &&& f.mask) <<< f.shift)).getLsbD k = false := by
      have hclaim : (f.mask <<< f.shift).testBit k = false := h hi
      rw [BitVec.getLsbD_ofNat, Nat.shiftLeft_and_distrib, Nat.testBit_and, hclaim, Bool.and_false, Bool.and_false]
    simp only [List.getD_eq_getElem?_getD, put, List.getElem?_modify, if_pos hi]
    cases frame[i]? with
    | none => rfl
    | some b => simp [hzero]
  · simp only [List.getD_eq_getElem?_getD, put_getElem?_of_ne frame f v (Ne.symm hi)]

theorem putAll_getLsbD_of_unclaimed (t : Layout) (ws : List (FieldName × Int)) (frame : List Byte) {i k : Nat}
    (h : ∀ w ∈ ws, fieldIndex (t.field w.1) = i → (t.field w.1).bits.testBit k = false) :
    ((putAll t ws frame).getD i 0).getLsbD k = (frame.getD i 0).getLsbD k := by
  induction ws generalizing frame with
  | nil => rfl
  | cons w ws ih =>
    rw [putAll_cons, ih _ fun w' hw' => h w' (List.mem_cons_of_mem _ hw'),
      put_getLsbD_of_unclaimed _ _ _ (h w List.mem_cons_self)]

/-- `put` of 0 writes nothing. -/
theorem put_zero (frame : List Byte) (f : Field) : put frame f 0 = frame := by
  have hid : (fun b : Byte => b ||| BitVec.ofNat 8 ((lo8 0 &&& f.mask) <<< f.shift)) = id := by
    funext b
    simp [lo8]
  rw [put, hid, List.modify_id]

theorem putAll_zero (t : Layout) {ws : List (FieldName × Int)} (frame : List Byte) (h : ∀ w ∈ ws, w.2 = 0) :
    putAll t ws frame = frame := by
  induction ws with
  | nil => rfl
  | cons w ws ih =>
    rw [putAll_cons, h w List.mem_cons_self, put_zero]
    exact ih fun w' hw' => h w' (List.mem_cons_of_mem _ hw')

/-- Behind the command byte the blank frame is 0 (R171). -/
theorem blankFrame_getElem? {n i : Nat} (hi : 4 ≤ i) (hn : i < n) : (blankFrame n)[i]? = some 0 := by
  have hlt : i - 4 < n - 4 := by omega
  rw [blankFrame, List.getElem?_append_right hi]
  simp [hlt]

/-- Sealing the frame leaves the bytes between the command byte and the checksum byte as the writes made them. -/
theorem encodeFrame_getElem? (p : Params) (c : ClimateState) {i : Nat} (hi : i + 1 < p.encFrameSize) :
    (encodeFrame p c)[i]? = (putAll p.layout (encodeWrites p.layout c) (blankFrame p.encFrameSize))[i]? := by
  refine sealFrame_getElem?_of_lt _ ?_
  have hsix := p.six_le_min
  have hmin := p.min_le_enc
  rwa [putAll_length, blankFrame_length (by omega)]

/-- ENCODE writes the fields of direction both, and so not `temp_cur` (R177). -/
theorem encodeWrites_direction (t : Layout) (c : ClimateState) :
    ∀ w ∈ encodeWrites t c, w.1.direction = .both := by
  unfold encodeWrites modeWrites fanWrites
  cases wireOfMode c.mode <;> split_ifs <;> simp [FieldName.direction]

/-- Settles O39: the blank frame is 0 there, and no write sets a bit its field does not claim. -/
theorem encodedUnclaimedBitsAreZero : Obligations.EncodedUnclaimedBitsAreZero := by
  unfold Obligations.EncodedUnclaimedBitsAreZero
  intro p c i k hi hn hfree
  have hwrites : ∀ w ∈ encodeWrites p.layout c,
      fieldIndex (p.layout.field w.1) = i → (p.layout.field w.1).bits.testBit k = false := fun w hw =>
    hfree w.1 ((p.field_dir w.1).trans (encodeWrites_direction _ c w hw))
  have hblank : (blankFrame p.encFrameSize).getD i 0 = 0 := by
    rw [List.getD_eq_getElem?_getD, blankFrame_getElem? hi (by omega), Option.getD_some]
  have hbit := putAll_getLsbD_of_unclaimed p.layout _ (blankFrame p.encFrameSize) hwrites
  rw [List.getD_eq_getElem?_getD, ← encodeFrame_getElem? p c hn, ← List.getD_eq_getElem?_getD, hblank] at hbit
  simpa [BitVec.testBit_toNat] using hbit

/-- The neutral record writes 0 in every field (R84 (d), R93). -/
theorem encodeWrites_neutral (p : Params) : ∀ w ∈ encodeWrites p.layout (ClimateState.neutral p), w.2 = 0 := by
  simp [encodeWrites, modeWrites, fanWrites, ClimateState.neutral, wireOfMode, levelOfFan, bitOf, Swing.portBit,
    p.fanCode_auto]

/-- Settles O44: the neutral record's writes leave the blank frame as it is. -/
theorem neutralStateEncodesToZeros : Obligations.NeutralStateEncodesToZeros := by
  unfold Obligations.NeutralStateEncodesToZeros
  intro p i hi hn
  rw [encodeFrame_getElem? p _ hn, putAll_zero _ _ (encodeWrites_neutral p)]
  exact blankFrame_getElem? hi (by omega)

end Codec

end Sys2Proof.Machine
end

section
/-! PROOFS. The Framer (R110 to R132): the rows of its transition table, the result codes of its operations, and what
becomes of a stream of bytes, fed by the host or waiting on the line. -/

namespace Sys2Proof.Machine

variable {s t u : State} {m : Memory} {b x : Byte} {i : Instr}

/-! ### NOP, RESTART and FEED in each state (R111 to R122) -/

/-- Settles O4: NOP is the report of None. -/
theorem nopChangesNothing : Obligations.NopChangesNothing := fun _ => rfl

/-- Settles O6: RESTART is the release and the report of None. -/
theorem restartOnlySetsRestart : Obligations.RestartOnlySetsRestart := fun _ => rfl

/-- Settles O7: the row of Complete. -/
theorem feedRefusedInComplete : Obligations.FeedRefusedInComplete := fun _ _ hs => feedByte_complete hs

/-- Settles O9: the rows of AwaitingSync; after the append the header test looks at the two bytes before and at the new
one. -/
theorem feedWhileScanning : Obligations.FeedWhileScanning := by
  unfold Obligations.FeedWhileScanning
  intro s b hs hroom header
  have hfeed : exec (.feed b) s = _ := feedByte_scanning hs hroom
  have hiff : (s.buf.append b).endsInHeader = true ↔ header := s.buf.append_endsInHeader b
  refine ⟨fun hh => ?_, fun hh hlt => ?_, fun hh hfull => ?_⟩
  · rw [hfeed, if_pos (hiff.mpr hh)]
    rfl
  · rw [hfeed, if_neg (mt hiff.mp hh), if_neg (Nat.ne_of_lt hlt)]
    rfl
  · rw [hfeed, if_neg (mt hiff.mp hh), if_pos hfull, State.recover, ← hs]
    rfl

/-- Settles O8: a FEED in Restart is one of an empty AwaitingSync, where a first byte ends no header and fills no
buffer. -/
theorem feedAfterRestartStartsAnew : Obligations.FeedAfterRestartStartsAnew := by
  unfold Obligations.FeedAfterRestartStartsAnew
  intro s b hs
  have h4 := s.params.four_le_dataMax
  have hempty : exec (.feed b) s = exec (.feed b) { s with fstate := .awaitingSync, buf := [] } := feedByte_restart hs
  obtain ⟨-, happend, -⟩ := feedWhileScanning { s with fstate := .awaitingSync, buf := [] } b rfl
    (show 0 < s.params.dataMax by omega)
  exact ⟨hempty.trans (happend (by simp) (show 0 + 1 < s.params.dataMax by omega)), hempty⟩

/-- The countdown reaches 0 at the byte that finds it at 1 (R117). -/
theorem countdown_ends_iff (c : Byte) : c - 1 = 0 ↔ c = 1 := sub_eq_zero

/-- Settles O10: the rows of Receiving. -/
theorem feedWhileReceiving : Obligations.FeedWhileReceiving := by
  unfold Obligations.FeedWhileReceiving
  intro s b hs hroom
  have hfeed : exec (.feed b) s = _ := feedByte_receiving hs hroom
  simp only [countdown_ends_iff] at hfeed
  refine ⟨fun hlast => ?_, fun hmore hlt => ?_, fun hmore hfull => ?_⟩
  · rw [hfeed, if_pos hlast]
    rfl
  · rw [hfeed, if_neg hmore, if_neg (Nat.ne_of_lt hlt)]
    rfl
  · rw [hfeed, if_neg hmore, if_pos hfull]
    rfl

/-! ### The transition table of FEED (R122)

A FEED is refused in Complete, scans in AwaitingSync and Restart, and counts in Receiving. -/

/-- The state looks for a header, with the bytes `m` before the next one: AwaitingSync with them in the buffer, or
Restart with none, since a FEED clears first (R113). -/
def State.ScansFrom (s : State) (m : Memory) : Prop := s.lazyClear.fstate = .awaitingSync ∧ s.lazyClear.buf = m

theorem scansFrom_of_awaitingSync (h : s.fstate = .awaitingSync) : s.ScansFrom s.buf := by
  simp [State.ScansFrom, State.lazyClear, h]

theorem scansFrom_of_restart (h : s.fstate = .restart) : s.ScansFrom [] := by
  simp [State.ScansFrom, State.lazyClear, h]

/-- The two states that scan. -/
theorem State.ScansFrom.cases (h : s.ScansFrom m) :
    s.fstate = .awaitingSync ∧ s.buf = m ∨ s.fstate = .restart ∧ m = [] := by
  obtain ⟨hfstate, hbuf⟩ := h
  by_cases hs : s.fstate = .restart
  · exact .inr ⟨hs, by simpa [State.lazyClear, hs, eq_comm] using hbuf⟩
  · simp only [State.lazyClear, if_neg hs] at hfstate hbuf
    exact .inl ⟨hfstate, hbuf⟩

/-- The rows of a FEED that scans from `m` with the countdown at `c`, in a buffer of `d` bytes (R114, R115, R118). -/
inductive ScanRow (d : Nat) (c : Byte) (m : Memory) (b : Byte) (t : State) : Prop
  /-- A header is found. -/
  | header (hh : (m.append b).endsInHeader = true) (hfstate : t.fstate = .receiving) (hbuf : t.buf = Memory.header b)
      (hsize : t.frameSize = b) (hev : t.out.ev = .none)
  /-- The byte fills the buffer. -/
  | overflow (hh : ¬ (m.append b).endsInHeader = true) (hlen : m.length + 1 = d) (hfstate : t.fstate = .awaitingSync)
      (hbuf : t.buf = []) (hsize : t.frameSize = c) (hev : t.out.ev = .framingOverflow)
  /-- The byte is kept. -/
  | append (hh : ¬ (m.append b).endsInHeader = true) (hlen : m.length + 1 < d) (hfstate : t.fstate = .awaitingSync)
      (hbuf : t.buf = m.append b) (hsize : t.frameSize = c) (hev : t.out.ev = .none)

/-- The rows of a FEED that counts, with `m` held and the countdown at `c`, in a buffer of `d` bytes (R116 to R118). -/
inductive CountRow (d : Nat) (c : Byte) (m : Memory) (b : Byte) (t : State) : Prop
  /-- The byte is the last one. -/
  | complete (hlast : c = 1) (hfstate : t.fstate = .complete) (hbuf : t.buf = m.append b) (hsize : t.frameSize = 0)
      (hev : t.out.ev = .none)
  /-- The byte fills the buffer before the last one has come. -/
  | overflow (hmore : c ≠ 1) (hlen : m.length + 1 = d) (hfstate : t.fstate = .awaitingSync) (hbuf : t.buf = [])
      (hsize : t.frameSize = c - 1) (hev : t.out.ev = .framingOverflow)
  /-- The byte is kept. -/
  | append (hmore : c ≠ 1) (hlen : m.length + 1 < d) (hfstate : t.fstate = .receiving) (hbuf : t.buf = m.append b)
      (hsize : t.frameSize = c - 1) (hev : t.out.ev = .none)

theorem feedByte_awaitingSync_row (hs : s.fstate = .awaitingSync) (hroom : s.buf.length < s.params.dataMax) :
    ∃ t, s.feedByte b = .next t ∧ ScanRow s.params.dataMax s.frameSize s.buf b t := by
  refine ⟨_, feedByte_scanning hs hroom, ?_⟩
  split_ifs with hh hfull
  · exact .header hh rfl rfl rfl rfl
  · exact .overflow hh hfull rfl rfl rfl rfl
  · exact .append hh (Nat.lt_of_le_of_ne hroom hfull) hs rfl rfl rfl

/-- Where there is room for the byte, a FEED that scans takes one of the three rows. -/
theorem feedByte_scanRow (h : s.ScansFrom m) (hroom : m.length < s.params.dataMax) :
    ∃ t, s.feedByte b = .next t ∧ ScanRow s.params.dataMax s.frameSize m b t := by
  rcases h.cases with ⟨hs, rfl⟩ | ⟨hs, rfl⟩
  · exact feedByte_awaitingSync_row hs hroom
  · rw [feedByte_restart hs]
    exact feedByte_awaitingSync_row (s := { s with buf := [], fstate := .awaitingSync }) rfl hroom

/-- Where there is room for the byte, a FEED in Receiving takes one of the three rows. -/
theorem feedByte_countRow (hs : s.fstate = .receiving) (hroom : s.buf.length < s.params.dataMax) :
    ∃ t, s.feedByte b = .next t ∧ CountRow s.params.dataMax s.frameSize s.buf b t := by
  refine ⟨_, feedByte_receiving hs hroom, ?_⟩
  simp only [countdown_ends_iff]
  split_ifs with hlast hfull
  · exact .complete hlast rfl rfl rfl rfl
  · exact .overflow hlast hfull rfl rfl rfl rfl
  · exact .append hlast (Nat.lt_of_le_of_ne hroom hfull) hs rfl rfl rfl

/-- A FEED that answers is refused, or takes a row of scanning, or takes a row of Receiving. -/
theorem feedByte_cases (h : s.feedByte b = .next t) :
    (s.fstate = .complete ∧ t = s.report .feedNotAccepted)
      ∨ (∃ m, s.ScansFrom m ∧ ScanRow s.params.dataMax s.frameSize m b t)
      ∨ s.fstate = .receiving ∧ CountRow s.params.dataMax s.frameSize s.buf b t := by
  have of_row {P : State → Prop} (hrow : ∃ u, s.feedByte b = .next u ∧ P u) : P t := by
    obtain ⟨u, hu, hP⟩ := hrow
    exact Host.Outcome.next.inj (hu.symm.trans h) ▸ hP
  have room_of (hs : s.fstate = .awaitingSync ∨ s.fstate = .receiving) : s.buf.length < s.params.dataMax := by
    by_contra hfull
    rw [feedByte_full hs (Nat.le_of_not_lt hfull)] at h
    cases h
  cases hs : s.fstate with
  | awaitingSync =>
    have hscan := scansFrom_of_awaitingSync hs
    exact .inr (.inl ⟨_, hscan, of_row (feedByte_scanRow hscan (room_of (.inl hs)))⟩)
  | receiving => exact .inr (.inr ⟨rfl, of_row (feedByte_countRow hs (room_of (.inr hs)))⟩)
  | complete => exact .inl ⟨rfl, Host.Outcome.next.inj (h.symm.trans (feedByte_complete hs))⟩
  | restart =>
    have hroom : 0 < s.params.dataMax := Nat.lt_of_lt_of_le (by decide) s.params.four_le_dataMax
    have hscan := scansFrom_of_restart hs
    exact .inr (.inl ⟨_, hscan, of_row (feedByte_scanRow hscan hroom)⟩)

/-! ### Who enters and leaves Complete and Restart (R122) -/

theorem State.ScansFrom.ne_complete (h : s.ScansFrom m) : s.fstate ≠ .complete := by
  rcases h.cases with ⟨hs, -⟩ | ⟨hs, -⟩ <;> simp [hs]

theorem State.ScansFrom.ne_receiving (h : s.ScansFrom m) : s.fstate ≠ .receiving := by
  rcases h.cases with ⟨hs, -⟩ | ⟨hs, -⟩ <;> simp [hs]

/-- A FEED completes a frame in Receiving only, leaves Complete as it is, and never ends in Restart. -/
theorem feedByte_fstate (h : s.feedByte b = .next t) :
    (t.fstate = .complete → s.fstate = .complete ∨ s.fstate = .receiving)
      ∧ (s.fstate = .complete → t.fstate = .complete) ∧ t.fstate ≠ .restart := by
  rcases feedByte_cases h with ⟨hs, rfl⟩ | ⟨m, hscan, hrow⟩ | ⟨hs, hrow⟩
  · simp [hs]
  · have hne := hscan.ne_complete
    cases hrow <;> simp [*]
  · cases hrow <;> simp [*]

/-- A frame on the line is, in its cycle, the DECODE of the frame that waits or the FEED of the first byte (R240). -/
theorem pollBytes_frame_cases {f : RawFrame} (h : s.pollBytes f.bytes = .next t) :
    (∃ xs, (s.pushPending xs).decodeBuffer = .next t) ∨ ∃ b xs, (s.pushPending xs).feedByte b = .next t := by
  by_cases hs : s.fstate = .complete
  · exact .inl ⟨_, (pollBytes_complete hs).symm.trans h⟩
  · exact .inr ⟨_, _, (pollBytes_feed hs).symm.trans h⟩

/-- Settles O12: only RESTART, RESET and what takes a byte write `fstate`, and a byte taken does what a FEED can do. -/
theorem completeAndRestartTransitions : Obligations.CompleteAndRestartTransitions := by
  unfold Obligations.CompleteAndRestartTransitions
  intro i s t h
  cases i with
  | nop | decode | encode | reservedOp5 | reservedOp6 | reservedOp7 =>
    obtain ⟨⟨hfstate, -⟩, -⟩ := codecAndNopKeepFramer _ s t h (by simp)
    simp_all
  | restart | reset =>
    obtain rfl := Host.Outcome.next.inj h
    simp
  | feed b =>
    obtain ⟨henter, hkeep, hrestart⟩ := feedByte_fstate h
    exact ⟨fun ht hs => ⟨(henter ht).resolve_left hs, .inl ⟨b, rfl⟩⟩, fun hs ht => absurd (hkeep hs) ht,
      fun ht _ => absurd ht hrestart⟩
  | frameSet f | frameReport f | frameAny f =>
    rcases pollBytes_frame_cases (f := f) h with ⟨xs, hdecode⟩ | ⟨b, xs, hfeed⟩
    · obtain ⟨⟨hfstate, -⟩, -⟩ := decodeBuffer_sameFramer hdecode
      simp_all
    · obtain ⟨henter, hkeep, hrestart⟩ := feedByte_fstate hfeed
      exact ⟨fun ht hs => ⟨(henter ht).resolve_left hs, .inr ⟨f, by simp⟩⟩, fun hs ht => absurd (hkeep hs) ht,
        fun ht _ => absurd ht hrestart⟩

/-! ### Result codes (R119, R200, R207) -/

/-- A record comes with None, and from a complete frame (R150). -/
theorem decodeBuffer_record (h : s.decodeBuffer = .next t) (hrecord : t.out.decOut.isSome = true) :
    t.out.ev = .none ∧ s.fstate = .complete := by
  unfold State.decodeBuffer at h
  split at h
  · obtain rfl := Host.Outcome.next.inj h
    simp at hrecord
  · next hs =>
    split at h <;> obtain rfl := Host.Outcome.next.inj h
    · simp at hrecord
    · exact ⟨rfl, not_not.mp hs⟩

/-- DECODE returns None or one of its three errors, and no frame (R150). -/
theorem decodeBuffer_event (h : s.decodeBuffer = .next t) :
    t.out.txFrame = none ∧ (t.out.ev = .none ∨ t.out.ev = .underlengthFrame ∨ t.out.ev = .checksumMismatch
      ∨ t.out.ev = .noFrame) := by
  obtain ⟨u, hu, -, -, -, -, -, -, htx, hev⟩ := decodeBuffer_next s
  obtain rfl := Host.Outcome.next.inj (hu.symm.trans h)
  exact ⟨htx, by simpa using hev⟩

/-- The result codes of FEED with what each of them changes: an overflow clears the buffer and leaves the countdown to
the state logic before it, and a refusal changes nothing (R111, R118, R119). -/
theorem feedByte_event (h : s.feedByte b = .next t) :
    t.out.ev = .none
      ∨ (t.out.ev = .framingOverflow ∧ t.buf = [] ∧ t.fstate = .awaitingSync
        ∧ (s.fstate ≠ .receiving → t.frameSize = s.frameSize) ∧ (s.fstate = .receiving → t.frameSize = s.frameSize - 1))
      ∨ (t.out.ev = .feedNotAccepted ∧ s.SameFramer t) := by
  rcases feedByte_cases h with ⟨hs, rfl⟩ | ⟨m, hscan, hrow⟩ | ⟨hs, hrow⟩
  · exact .inr (.inr ⟨rfl, rfl, rfl, rfl⟩)
  · cases hrow with
    | header _ _ _ _ hev | append _ _ _ _ _ hev => exact .inl hev
    | overflow _ _ hfstate hbuf hsize hev =>
      exact .inr (.inl ⟨hev, hbuf, hfstate, fun _ => hsize, fun hs => absurd hs hscan.ne_receiving⟩)
  · cases hrow with
    | complete _ _ _ _ hev | append _ _ _ _ _ hev => exact .inl hev
    | overflow _ _ hfstate hbuf hsize hev =>
      exact .inr (.inl ⟨hev, hbuf, hfstate, fun hne => absurd hs hne, fun _ => hsize⟩)

/-- Settles O45: the operations that report None do so by definition; DECODE and FEED have their own result codes; a
frame is the one or the other. -/
theorem eventsByOperation : Obligations.EventsByOperation := by
  unfold Obligations.EventsByOperation
  intro i s t h
  cases i with
  | nop | restart | reset | encode | reservedOp5 | reservedOp6 | reservedOp7 =>
    obtain rfl := Host.Outcome.next.inj h
    simp [State.txValid]
  | feed b =>
    obtain ⟨-, -, -, -, hdec, htx⟩ := feedByte_frame h
    have hev : t.out.ev = .none ∨ t.out.ev = .framingOverflow ∨ t.out.ev = .feedNotAccepted :=
      (feedByte_event h).imp_right (Or.imp And.left And.left)
    simp [State.txValid, hdec, htx, hev]
  | decode =>
    obtain ⟨htx, hev⟩ := decodeBuffer_event h
    simpa [State.txValid, htx, hev] using decodeBuffer_record h
  | frameSet f | frameReport f | frameAny f =>
    rcases pollBytes_frame_cases (f := f) h with ⟨xs, hdecode⟩ | ⟨b, xs, hfeed⟩
    · obtain ⟨htx, -⟩ := decodeBuffer_event hdecode
      simpa [State.txValid, htx] using decodeBuffer_record hdecode
    · obtain ⟨-, -, -, -, hdec, htx⟩ := feedByte_frame hfeed
      simp [State.txValid, hdec, htx]

/-- What the events of one operation from `s` to `t` change (R207, R118). -/
def EventsChange (s t : State) : Prop :=
  (t.out.ev = .framingOverflow → t.buf = [] ∧ t.fstate = .awaitingSync
      ∧ (s.fstate ≠ .receiving → t.frameSize = s.frameSize) ∧ (s.fstate = .receiving → t.frameSize = s.frameSize - 1))
    ∧ (t.out.ev = .underlengthFrame ∨ t.out.ev = .checksumMismatch ∨ t.out.ev = .noFrame
        ∨ t.out.ev = .feedNotAccepted → s.SameFramer t)

theorem eventsChange_of_none (h : t.out.ev = .none) : EventsChange s t := by simp [EventsChange, h]

theorem decodeBuffer_eventsChange (h : s.decodeBuffer = .next t) : EventsChange s t := by
  obtain ⟨hsame, -⟩ := decodeBuffer_sameFramer h
  obtain ⟨-, hev⟩ := decodeBuffer_event h
  exact ⟨fun hoverflow => by simp [hoverflow] at hev, fun _ => hsame⟩

theorem feedByte_eventsChange (h : s.feedByte b = .next t) : EventsChange s t := by
  rcases feedByte_event h with hev | ⟨hev, hcleared⟩ | ⟨hev, hsame⟩
  · exact eventsChange_of_none hev
  · exact ⟨fun _ => hcleared, by simp [hev]⟩
  · exact ⟨by simp [hev], fun _ => hsame⟩

/-- Settles O46: an event other than None comes from DECODE or from FEED. -/
theorem eventsChangeOnlyTheirState : Obligations.EventsChangeOnlyTheirState := by
  unfold Obligations.EventsChangeOnlyTheirState
  intro i s t h
  cases i with
  | nop | restart | reset | encode | reservedOp5 | reservedOp6 | reservedOp7 =>
    exact eventsChange_of_none (Host.Outcome.next.inj h ▸ rfl)
  | feed b => exact feedByte_eventsChange h
  | decode => exact decodeBuffer_eventsChange h
  | frameSet f | frameReport f | frameAny f =>
    rcases pollBytes_frame_cases (f := f) h with ⟨xs, hdecode⟩ | ⟨b, xs, hfeed⟩
    · exact decodeBuffer_eventsChange (s := s.pushPending xs) hdecode
    · exact feedByte_eventsChange (s := s.pushPending xs) hfeed

end Sys2Proof.Machine
end

section
/-! PROOFS. Streams of bytes (R123 to R131, R240): the two ways in which the host feeds bytes one a cycle, and what a
run over them does while it looks for a header, while it counts a frame, and in Complete. -/

namespace Sys2Proof.Machine

variable {Q : List Byte → List Stimulus → Prop} {s t u : State} {m : Memory} {b x : Byte} {bs cs body : List Byte}
  {rest : List Stimulus}

/-! ### Sources of bytes (R94, R240)

A source says which stimuli hold the bytes to be fed. Both of the host's sources feed their next byte in each cycle in
which no frame is complete, and the lemmas about runs hold of any source that does so. -/

/-- From `s` to `t` only bytes were fed, which keeps the parameters and the draws, and `bs` are still to be fed. -/
structure StillToFeed (Q : List Byte → List Stimulus → Prop) (s : State) (bs : List Byte) (t : State) : Prop where
  params : t.params = s.params
  draws : t.draws = s.draws
  pending : Q bs t.pending

theorem StillToFeed.trans (h : StillToFeed Q s bs t) (h' : StillToFeed Q t cs u) : StillToFeed Q s cs u :=
  ⟨h'.params.trans h.params, h'.draws.trans h.draws, h'.pending⟩

/-- Outside Complete a cycle is the FEED of the source's next byte, and leaves the others. -/
def FeedSource (Q : List Byte → List Stimulus → Prop) : Prop :=
  ∀ (s : State) (b : Byte) (bs : List Byte), s.fstate ≠ .complete → Q (b :: bs) s.pending →
    ∃ u, step s = u.feedByte b ∧ s.SameFramer u ∧ StillToFeed Q s bs u

/-- The bytes are `FEEDS`, before the stimuli `rest` (R94). -/
def AsFeeds (rest : List Stimulus) (bs : List Byte) (pending : List Stimulus) : Prop := pending = feeds bs ++ rest

/-- The bytes are on the line, in the entries into which the loop has cut it, before the stimuli `rest` (R240). -/
def OnLine (rest : List Stimulus) (bs : List Byte) (pending : List Stimulus) : Prop :=
  ∃ xs : List (List Byte), xs ≠ [] ∧ xs.flatten = bs ∧ pending = xs.map .line ++ rest

/-- In every state the cycle of a FEED stimulus feeds its byte. -/
theorem step_asFeeds (h : AsFeeds rest (b :: bs) s.pending) :
    ∃ u, step s = u.feedByte b ∧ s.SameFramer u ∧ StillToFeed (AsFeeds rest) s bs u :=
  ⟨_, step_cycle h, ⟨rfl, rfl, rfl⟩, rfl, rfl, rfl⟩

theorem feedSource_asFeeds (rest : List Stimulus) : FeedSource (AsFeeds rest) := fun _ _ _ _ => step_asFeeds

/-- A drained entry of the line is passed over (R240). -/
theorem step_drained (h : s.pending = .line [] :: rest) (hs : s.fstate ≠ .complete) :
    step s = step { s with pending := rest } := by
  have hfetch : s.fetch = ({ s with pending := rest } : State).fetch := by
    rw [fetch_drained h hs, State.fetch, State.frameValid, decide_eq_false hs]
  rw [step, hfetch]
  rfl

/-- The next byte of an entry is fed, whether or not the entry begins with a frame; what is left of the entry stays on
the line (R240). -/
theorem step_line_cons (h : s.pending = .line (b :: bs) :: rest) (hs : s.fstate ≠ .complete) :
    ∃ u, step s = u.feedByte b ∧ s.SameFramer u ∧ StillToFeed (OnLine rest) s bs u := by
  cases hd : decodeFrame s.params.cmdReport (b :: bs) with
  | error e => exact ⟨_, step_of_fetch (fetch_noise h hd hs), ⟨rfl, rfl, rfl⟩, rfl, rfl, [bs], by simp⟩
  | ok r =>
    obtain ⟨i, left⟩ := r
    obtain ⟨f, -, hbytes, rfl⟩ := decodeFrame_eq_ok_iff.mp hd
    obtain ⟨rfl, rfl⟩ := List.cons.inj hbytes
    exact ⟨_, (step_lineFrame h hd).trans ((exec_frameKind _ f _).trans (pollBytes_feed hs)), ⟨rfl, rfl, rfl⟩,
      rfl, rfl, [f.bytes.tail, left], by simp [RawFrame.bytes]⟩

theorem feedSource_onLine (rest : List Stimulus) : FeedSource (OnLine rest) := by
  rintro s b bs hs ⟨xs, -, hflatten, hpending⟩
  induction xs generalizing s with
  | nil => cases hflatten
  | cons y xs ih =>
    cases y with
    | nil =>
      obtain ⟨u, hstep, hsame, hstill⟩ := ih { s with pending := xs.map .line ++ rest } hs hflatten rfl
      exact ⟨u, (step_drained hpending hs).trans hstep, hsame, hstill.params, hstill.draws, hstill.pending⟩
    | cons c y =>
      obtain ⟨rfl, rfl⟩ := List.cons.inj hflatten
      obtain ⟨u, hstep, hsame, hparams, hdraws, ys, hys, hleft, hu⟩ := step_line_cons hpending hs
      exact ⟨u, hstep, hsame, hparams, hdraws, ys ++ xs, by simp [hys], by simp [hleft], by simp [hu]⟩

/-! ### One byte of a source -/

theorem State.ScansFrom.of_sameFramer (h : s.ScansFrom m) (hsame : s.SameFramer t) : t.ScansFrom m := by
  obtain ⟨hfstate, hbuf, -⟩ := hsame
  rcases h.cases with ⟨hs, rfl⟩ | ⟨hs, rfl⟩
  · exact hbuf ▸ scansFrom_of_awaitingSync (hfstate.trans hs)
  · exact scansFrom_of_restart (hfstate.trans hs)

theorem StillToFeed.feedByte (h : StillToFeed Q s bs u) (hfeed : u.feedByte b = .next t) : StillToFeed Q s bs t := by
  obtain ⟨hparams, hdraws, hpending, -⟩ := feedByte_frame hfeed
  exact h.trans ⟨hparams, hdraws, hpending ▸ h.pending⟩

/-- A byte fed to a state that scans. -/
theorem step_scanRow (hQ : FeedSource Q) (hscan : s.ScansFrom m) (hroom : m.length < s.params.dataMax)
    (hq : Q (b :: bs) s.pending) :
    ∃ t, step s = .next t ∧ StillToFeed Q s bs t ∧ ScanRow s.params.dataMax s.frameSize m b t := by
  obtain ⟨u, hstep, hsame, hstill⟩ := hQ s b bs hscan.ne_complete hq
  obtain ⟨t, hfeed, hrow⟩ := feedByte_scanRow (b := b) (hscan.of_sameFramer hsame) (hstill.params ▸ hroom)
  obtain ⟨-, -, hsize⟩ := hsame
  rw [hstill.params, hsize] at hrow
  exact ⟨t, hstep.trans hfeed, hstill.feedByte hfeed, hrow⟩

/-- A byte fed to a state that counts. -/
theorem step_countRow (hQ : FeedSource Q) (hs : s.fstate = .receiving) (hroom : s.buf.length < s.params.dataMax)
    (hq : Q (b :: bs) s.pending) :
    ∃ t, step s = .next t ∧ StillToFeed Q s bs t ∧ CountRow s.params.dataMax s.frameSize s.buf b t := by
  obtain ⟨u, hstep, ⟨hfstate, hbuf, hsize⟩, hstill⟩ := hQ s b bs (by simp [hs]) hq
  obtain ⟨t, hfeed, hrow⟩ := feedByte_countRow (b := b) (hfstate.trans hs) (by rwa [hbuf, hstill.params])
  rw [hstill.params, hsize, hbuf] at hrow
  exact ⟨t, hstep.trans hfeed, hstill.feedByte hfeed, hrow⟩

/-! ### Complete (R123) -/

/-- Settles O15, by induction on the bytes: each FEED is refused. -/
theorem completeStallsUnderFeeds : Obligations.CompleteStallsUnderFeeds := by
  unfold Obligations.CompleteStallsUnderFeeds
  intro s bs rest hs hq
  induction bs generalizing s with
  | nil => exact ⟨s, rfl, ⟨rfl, rfl, rfl⟩, hq, fun h => absurd rfl h⟩
  | cons b bs ih =>
    obtain ⟨u, hstep, ⟨hfstate, hbuf, hsize⟩, hstill⟩ := step_asFeeds hq
    have hu := hfstate.trans hs
    obtain ⟨t, hrun, ⟨hfstate', hbuf', hsize'⟩, hpending, hev⟩ := ih (u.report .feedNotAccepted) hu hstill.pending
    refine ⟨t, (run_succ_next (hstep.trans (feedByte_complete hu))).trans hrun,
      ⟨hfstate'.trans hfstate, hbuf'.trans hbuf, hsize'.trans hsize⟩, hpending, fun _ => ?_⟩
    cases bs with
    | nil => exact Host.Outcome.next.inj hrun ▸ rfl
    | cons => exact hev (List.cons_ne_nil _ _)

/-! ### Bytes without a header (R114, R118) -/

/-- With `m` held before them, none of the bytes ends a header. -/
def Memory.FindsNoHeader : Memory → List Byte → Prop
  | _, [] => True
  | m, b :: bs => ¬ (m.append b).endsInHeader = true ∧ (m.append b).FindsNoHeader bs

/-- A sync byte ends no header (R114, R126). -/
theorem Memory.append_sync_not_header (m : Memory) : ¬ (m.append sync).endsInHeader = true := fun h => by
  obtain ⟨-, -, -, hne⟩ := (m.append_endsInHeader sync).mp h
  exact hne rfl

theorem Memory.findsNoHeader_replicate_sync (m : Memory) (n : Nat) : m.FindsNoHeader (List.replicate n sync) := by
  induction n generalizing m with
  | zero => trivial
  | succ n ih => exact ⟨m.append_sync_not_header, ih _⟩

theorem Memory.NoHeader.of_append (h : Memory.NoHeader (m ++ bs)) : m.NoHeader := by
  intro i h2 hi
  have hi' : i < (m ++ bs).length := by rw [List.length_append]; omega
  simpa only [Memory.read, List.getElem?_append_left hi, List.getElem?_append_left (show i - 1 < m.length by omega),
    List.getElem?_append_left (show i - 2 < m.length by omega)] using h i h2 hi'

/-- A buffer without a header does not end in one. -/
theorem Memory.NoHeader.append_not_header (h : Memory.NoHeader (m.append b)) : ¬ (m.append b).endsInHeader = true := by
  intro hh
  obtain ⟨h2, hs0, hs1, hne⟩ := (m.append_endsInHeader b).mp hh
  refine h m.length h2 (by simp) ⟨?_, ?_, ?_⟩
  · rwa [m.read_append_of_lt b (by omega)]
  · rwa [m.read_append_of_lt b (by omega)]
  · simpa [m.read_append_last b] using hne

theorem Memory.append_append (m : Memory) (b : Byte) (bs : List Byte) : m.append b ++ bs = m ++ b :: bs :=
  List.append_assoc m [b] bs

theorem Memory.NoHeader.findsNoHeader (h : Memory.NoHeader (m ++ bs)) : m.FindsNoHeader bs := by
  induction bs generalizing m with
  | nil => trivial
  | cons b bs ih =>
    rw [← m.append_append] at h
    exact ⟨h.of_append.append_not_header, ih h⟩

/-- Bytes that find no header and leave the buffer short of full are kept. -/
theorem run_kept (hQ : FeedSource Q) (hscan : s.ScansFrom m) (hno : m.FindsNoHeader bs)
    (hroom : m.length + bs.length < s.params.dataMax) (hq : Q (bs ++ cs) s.pending) :
    ∃ t, run bs.length s = .next t ∧ StillToFeed Q s cs t ∧ t.ScansFrom (m ++ bs) ∧ t.frameSize = s.frameSize := by
  induction bs generalizing s m with
  | nil => exact ⟨s, rfl, ⟨rfl, rfl, hq⟩, by simpa using hscan, rfl⟩
  | cons b bs ih =>
    obtain ⟨hb, hbs⟩ := hno
    rw [List.length_cons] at hroom
    obtain ⟨u, hstep, hstill, hrow⟩ := step_scanRow hQ hscan (by omega) hq
    cases hrow with
    | header hh => exact absurd hh hb
    | overflow _ hlen => omega
    | append _ _ hfstate hbuf hsize =>
      obtain ⟨t, hrun, hstill', hscan', hsize'⟩ := ih (hbuf ▸ scansFrom_of_awaitingSync hfstate) hbs
        (by rw [hstill.params, Memory.append_length]; omega) hstill.pending
      exact ⟨t, (run_succ_next hstep).trans hrun, hstill.trans hstill', m.append_append b bs ▸ hscan',
        hsize'.trans hsize⟩

theorem State.ScansFrom.buf_eq (h : s.ScansFrom m) (hs : s.fstate = .awaitingSync) : s.buf = m := by
  rcases h.cases with ⟨-, hm⟩ | ⟨hs', -⟩
  · exact hm
  · simp [hs] at hs'

/-- A state that scans from some bytes is AwaitingSync with these bytes. -/
theorem State.ScansFrom.awaitingSync (h : s.ScansFrom m) (hne : m ≠ []) : s.fstate = .awaitingSync ∧ s.buf = m :=
  h.cases.resolve_right fun ⟨_, hm⟩ => hne hm

/-- Settles O19: all bytes but the last are kept, and the last one fills the buffer. -/
theorem headerlessBytesOverflow : Obligations.HeaderlessBytesOverflow := by
  unfold Obligations.HeaderlessBytesOverflow
  intro s bs rest hs hbuf hq hlen hno
  have h4 := s.params.four_le_dataMax
  obtain rfl | ⟨init, b, rfl⟩ := bs.eq_nil_or_concat'
  · simp at hlen; omega
  · rw [List.length_append, List.length_singleton] at hlen ⊢
    have hscan : s.ScansFrom [] := hbuf ▸ scansFrom_of_awaitingSync hs
    obtain ⟨u, hrun, hstill, hscan', hsize⟩ := run_kept (cs := [b]) (feedSource_asFeeds rest) hscan
      (Memory.NoHeader.findsNoHeader (m := []) hno.of_append) (by simp; omega) hq
    obtain ⟨t, hstep, hstill', hrow⟩ := step_scanRow (feedSource_asFeeds rest) hscan'
      (by rw [hstill.params, List.nil_append]; omega) hstill.pending
    rw [hstill.params, hsize] at hrow
    refine ⟨t, (run_add hrun).trans ((run_one u).trans hstep), ?_⟩
    cases hrow with
    | header hh => exact absurd hh (Memory.NoHeader.append_not_header (m := init) hno)
    | overflow _ _ hfstate' hbuf' hsize' hev => exact ⟨hfstate', hbuf', hev, hsize', hstill'.pending⟩
    | append _ hlt => simp at hlt; omega

/-- While no FEED finds a header the number of bytes held grows by one modulo `DATA_MAX`: a full buffer is cleared. -/
theorem run_unsynced (hQ : FeedSource Q) (hscan : s.ScansFrom m) (hroom : m.length < s.params.dataMax)
    (hno : ∀ k u, k ≤ bs.length → run k s = .next u → u.fstate ≠ .receiving) (hq : Q (bs ++ cs) s.pending) :
    ∃ t m', run bs.length s = .next t ∧ StillToFeed Q s cs t ∧ t.ScansFrom m'
      ∧ m'.length = (m.length + bs.length) % s.params.dataMax
      ∧ (s.fstate = .awaitingSync ∨ bs ≠ [] → t.fstate = .awaitingSync) := by
  induction bs generalizing s m with
  | nil =>
    exact ⟨s, m, rfl, ⟨rfl, rfl, hq⟩, hscan, (Nat.mod_eq_of_lt hroom).symm, fun h => h.resolve_right fun h => h rfl⟩
  | cons b bs ih =>
    obtain ⟨u, hstep, hstill, hrow⟩ := step_scanRow hQ hscan hroom hq
    have hno' (k : Nat) (v : State) (hk : k ≤ bs.length) (hv : run k u = .next v) : v.fstate ≠ .receiving :=
      hno (k + 1) v (Nat.succ_le_succ hk) ((run_succ_next hstep).trans hv)
    obtain ⟨hfstate, hlen⟩ : u.fstate = .awaitingSync ∧ u.buf.length = (m.length + 1) % s.params.dataMax := by
      cases hrow with
      | header _ hfstate => exact absurd hfstate (hno' 0 u (Nat.zero_le _) rfl)
      | overflow _ hfull hfstate hbuf => exact ⟨hfstate, by rw [hbuf, hfull, Nat.mod_self]; rfl⟩
      | append _ hlt hfstate hbuf => exact ⟨hfstate, by rw [hbuf, Memory.append_length, Nat.mod_eq_of_lt hlt]⟩
    have hroom' : u.buf.length < u.params.dataMax := by
      rw [hlen, hstill.params]
      exact Nat.mod_lt _ (Nat.zero_lt_of_lt hroom)
    obtain ⟨t, m', hrun, hstill', hscan', hlen', hawait⟩ :=
      ih (scansFrom_of_awaitingSync hfstate) hroom' hno' hstill.pending
    refine ⟨t, m', (run_succ_next hstep).trans hrun, hstill.trans hstill', hscan', ?_, fun _ => hawait (.inl hfstate)⟩
    rw [hlen', hlen, hstill.params, Nat.mod_add_mod, List.length_cons, Nat.add_assoc, Nat.add_comm 1]

/-- The two starting points of R124: AwaitingSync with `n` bytes, or Restart, for which `n` is 0. -/
theorem scansFrom_of_start {n : Nat}
    (h : (s.fstate = .awaitingSync ∧ n = s.buf.length ∧ n < s.params.dataMax) ∨ (s.fstate = .restart ∧ n = 0)) :
    ∃ m, s.ScansFrom m ∧ m.length = n ∧ n < s.params.dataMax := by
  rcases h with ⟨hs, rfl, hroom⟩ | ⟨hs, rfl⟩
  · exact ⟨_, scansFrom_of_awaitingSync hs, rfl, hroom⟩
  · exact ⟨_, scansFrom_of_restart hs, rfl, Nat.lt_of_lt_of_le (by decide) s.params.four_le_dataMax⟩

/-- Settles O17: the bytes held are counted modulo `DATA_MAX`, and in AwaitingSync they are the buffer. -/
theorem lenCountsModuloDataMax : Obligations.LenCountsModuloDataMax := by
  unfold Obligations.LenCountsModuloDataMax
  intro s n bs rest hstart hq hno
  obtain ⟨m, hscan, rfl, hroom⟩ := scansFrom_of_start (hstart.imp_right fun ⟨hs, hn, _⟩ => ⟨hs, hn⟩)
  have hfed : s.fstate = .awaitingSync ∨ bs ≠ [] := hstart.imp And.left fun ⟨_, _, hne⟩ => hne
  obtain ⟨t, m', hrun, -, hscan', hlen, hawait⟩ := run_unsynced (cs := []) (feedSource_asFeeds rest) hscan hroom hno
    (by rw [List.append_nil]; exact hq)
  have ht := hawait hfed
  exact ⟨t, hrun, ht, by rw [State.len, hscan'.buf_eq ht, hlen]⟩

/-! ### A header and the bytes it declares (R115 to R118, R125) -/

/-- Receiving, with the bytes `body` after a header with third byte `x`, and counted down (R115, R116). -/
structure State.Counts (s : State) (x : Byte) (body : List Byte) : Prop where
  fstate : s.fstate = .receiving
  buf : s.buf = Memory.header x ++ body
  frameSize : s.frameSize = x - BitVec.ofNat 8 body.length

theorem State.Counts.buf_length (h : s.Counts x body) : s.buf.length = 3 + body.length := by
  rw [h.buf, List.length_append, Memory.header_length]

/-- The countdown stands at 1 before the last declared byte and nowhere else. -/
theorem State.Counts.frameSize_eq_one_iff (h : s.Counts x body) (hcount : body.length < declaredCount x) :
    s.frameSize = 1 ↔ body.length + 1 = declaredCount x := by
  rw [← countdown_ends_iff, h.frameSize, countdown_succ]
  exact countdown_eq_zero_iff (Nat.succ_pos _) hcount

/-- After the two sync bytes, which find no header and are not cleared, the third byte ends a header (R114, R115). -/
theorem run_header (hQ : FeedSource Q) (hscan : s.ScansFrom m) (hroom : m.length + 2 < s.params.dataMax)
    (hx : x ≠ sync) (hq : Q ([sync, sync, x] ++ bs) s.pending) :
    ∃ t, run 3 s = .next t ∧ StillToFeed Q s bs t ∧ t.Counts x [] := by
  obtain ⟨u, hrun, hstill, hscan', -⟩ := run_kept (cs := x :: bs) hQ hscan (m.findsNoHeader_replicate_sync 2) hroom hq
  obtain ⟨t, hstep, hstill', hrow⟩ := step_scanRow hQ hscan' (by simpa [hstill.params] using hroom) hstill.pending
  have hheader : ((m ++ [sync, sync]).append x).endsInHeader = true :=
    (Memory.append_endsInHeader _ x).mpr (by simp [Memory.read, hx])
  refine ⟨t, (run_add hrun).trans ((run_one u).trans hstep), hstill.trans hstill', ?_⟩
  cases hrow with
  | header _ hfstate hbuf hsize => exact ⟨hfstate, hbuf, hsize.trans (BitVec.sub_zero x).symm⟩
  | overflow hno | append hno => exact absurd hheader hno

/-- Short of the declared bytes and of a full buffer, the bytes are kept and counted. -/
theorem run_counted (hQ : FeedSource Q) (h : s.Counts x body) (hcount : body.length + bs.length < declaredCount x)
    (hroom : 3 + (body.length + bs.length) < s.params.dataMax) (hq : Q (bs ++ cs) s.pending) :
    ∃ t, run bs.length s = .next t ∧ StillToFeed Q s cs t ∧ t.Counts x (body ++ bs) := by
  induction bs generalizing s body with
  | nil => exact ⟨s, rfl, ⟨rfl, rfl, hq⟩, by simpa using h⟩
  | cons b bs ih =>
    rw [List.length_cons] at hcount hroom
    obtain ⟨u, hstep, hstill, hrow⟩ := step_countRow hQ h.fstate (by rw [h.buf_length]; omega) hq
    have hlast := h.frameSize_eq_one_iff (by omega)
    cases hrow with
    | complete hone => have := hlast.mp hone; omega
    | overflow _ hfull => rw [h.buf_length] at hfull; omega
    | append _ _ hfstate hbuf hsize =>
      have hu : u.Counts x (body ++ [b]) :=
        ⟨hfstate, by rw [hbuf, h.buf, Memory.append, List.append_assoc],
          by rw [hsize, h.frameSize, countdown_succ, List.length_append, List.length_singleton]⟩
      obtain ⟨t, hrun, hstill', ht⟩ := ih hu (by simp; omega) (by rw [hstill.params]; simp; omega) hstill.pending
      exact ⟨t, (run_succ_next hstep).trans hrun, hstill.trans hstill', by simpa using ht⟩

/-- Bytes after a header, no more than it declares and than the buffer takes: all but the last are counted, and the last
one takes a row of Receiving. -/
theorem run_counted_last (hQ : FeedSource Q) (h : s.Counts x []) (hcount : bs.length < declaredCount x)
    (hroom : 3 + bs.length < s.params.dataMax) (hq : Q (bs ++ [b] ++ cs) s.pending) :
    ∃ t, run (bs ++ [b]).length s = .next t ∧ StillToFeed Q s cs t
      ∧ CountRow s.params.dataMax (x - BitVec.ofNat 8 bs.length) (Memory.header x ++ bs) b t := by
  rw [List.append_assoc] at hq
  obtain ⟨u, hrun, hstill, hu⟩ := run_counted hQ h (by simpa using hcount) (by simpa using hroom) hq
  rw [List.nil_append] at hu
  obtain ⟨t, hstep, hstill', hrow⟩ := step_countRow hQ hu.fstate (by rw [hu.buf_length, hstill.params]; exact hroom)
    hstill.pending
  rw [hstill.params, hu.frameSize, hu.buf] at hrow
  rw [List.length_append, List.length_singleton]
  exact ⟨t, (run_add hrun).trans ((run_one u).trans hstep), hstill.trans hstill', hrow⟩

/-- The declared bytes, if the buffer holds them, complete the frame: X of them, or 256 for X = 0 (R117, R125). -/
theorem run_whole (hQ : FeedSource Q) (h : s.Counts x []) (hcount : bs.length = declaredCount x)
    (hroom : 3 + bs.length ≤ s.params.dataMax) (hq : Q (bs ++ cs) s.pending) :
    ∃ t, run bs.length s = .next t ∧ StillToFeed Q s cs t ∧ t.fstate = .complete ∧ t.buf = Memory.header x ++ bs
      ∧ t.frameSize = 0 := by
  obtain rfl | ⟨init, b, rfl⟩ := bs.eq_nil_or_concat'
  · exact absurd hcount (Nat.ne_of_lt (declaredCount_pos x))
  · rw [List.length_append, List.length_singleton] at hcount hroom
    obtain ⟨t, hrun, hstill, hrow⟩ := run_counted_last hQ h (by omega) (by omega) hq
    have hlast : x - BitVec.ofNat 8 init.length = 1 := by
      rw [← countdown_ends_iff, countdown_succ]
      exact (countdown_eq_zero_iff (Nat.succ_pos _) hcount.le).mpr hcount
    refine ⟨t, hrun, hstill, ?_⟩
    cases hrow with
    | complete _ hfstate hbuf hsize => exact ⟨hfstate, by rw [hbuf, Memory.append, List.append_assoc], hsize⟩
    | overflow hmore | append hmore => exact absurd hlast hmore

/-- If the buffer does not hold the declared bytes, the byte that fills it clears it (R118, R125). -/
theorem run_oversize (hQ : FeedSource Q) (h : s.Counts x []) (hcount : bs.length < declaredCount x)
    (hfull : 3 + bs.length = s.params.dataMax) (hq : Q (bs ++ cs) s.pending) :
    ∃ t, run bs.length s = .next t ∧ t.fstate = .awaitingSync ∧ t.buf = [] ∧ t.out.ev = .framingOverflow
      ∧ t.frameSize = x - BitVec.ofNat 8 bs.length := by
  have h4 := s.params.four_le_dataMax
  obtain rfl | ⟨init, b, rfl⟩ := bs.eq_nil_or_concat'
  · rw [List.length_nil] at hfull; omega
  · rw [List.length_append, List.length_singleton] at hcount hfull
    obtain ⟨t, hrun, -, hrow⟩ := run_counted_last hQ h (by omega) (by omega) hq
    refine ⟨t, hrun, ?_⟩
    cases hrow with
    | complete hlast =>
      rw [← countdown_ends_iff, countdown_succ] at hlast
      exact absurd ((countdown_eq_zero_iff (Nat.succ_pos _) hcount.le).mp hlast) hcount.ne
    | overflow _ _ hfstate hbuf hsize hev =>
      exact ⟨hfstate, hbuf, hev, by rw [hsize, countdown_succ, List.length_append, List.length_singleton]⟩
    | append _ hlt => rw [List.length_append, Memory.header_length] at hlt; omega

theorem declaredCount_zero : declaredCount 0 = 256 := if_pos rfl

theorem declaredCount_of_ne_zero (hx : x ≠ 0) : declaredCount x = x.toNat := if_neg hx

/-- Settles O16: the garbage leaves AwaitingSync with room for the two sync bytes, the header is found, and the declared
bytes complete the frame. -/
theorem resynchronizesOnHeader : Obligations.ResynchronizesOnHeader := by
  unfold Obligations.ResynchronizesOnHeader
  intro s n g body x rest hstart hq hx hx0 hbody hroom hno h1 h2
  have hQ := feedSource_asFeeds rest
  have hcount : body.length = declaredCount x := hbody.trans (declaredCount_of_ne_zero hx0).symm
  obtain ⟨m, hscan, rfl, hlt⟩ := scansFrom_of_start hstart
  obtain ⟨t₁, m', hrun₁, hstill₁, hscan', hlen, -⟩ := run_unsynced (cs := [sync, sync, x] ++ body) hQ hscan hlt hno
    (by rw [← List.append_assoc]; exact hq)
  have hsync : m'.length + 2 < t₁.params.dataMax := by
    have hmod := Nat.mod_lt (m.length + g.length) (Nat.zero_lt_of_lt hlt)
    rw [hlen, hstill₁.params]
    rw [← Nat.mod_add_mod] at h1 h2
    by_contra hge
    have hend : (m.length + g.length) % s.params.dataMax + 1 = s.params.dataMax
        ∨ (m.length + g.length) % s.params.dataMax + 2 = s.params.dataMax := by omega
    rcases hend with hend | hend
    · exact h1 (by rw [hend, Nat.mod_self])
    · exact h2 (by rw [hend, Nat.mod_self])
  obtain ⟨t₂, hrun₂, hstill₂, ht₂⟩ := run_header hQ hscan' hsync hx hstill₁.pending
  have hparams₂ : t₂.params = s.params := (hstill₁.trans hstill₂).params
  obtain ⟨t₃, hrun₃, hstill₃, hfstate, hbuf, hsize⟩ := run_whole (cs := []) hQ ht₂ hcount
    (by rw [hparams₂, hbody]; exact hroom) (by rw [List.append_nil]; exact hstill₂.pending)
  have hrun : run (g.length + 3) s = .next t₂ := (run_add hrun₁).trans hrun₂
  exact ⟨⟨t₂, hrun, ht₂.fstate, ht₂.buf, by simpa using ht₂.frameSize⟩,
    t₃, (run_add hrun).trans hrun₃, hfstate, hbuf, hsize, hstill₃.pending⟩

/-- Settles O20: length byte 0 declares 256 bytes. -/
theorem zeroLengthHeaderCounts256 : Obligations.ZeroLengthHeaderCounts256 := by
  unfold Obligations.ZeroLengthHeaderCounts256
  intro s bs rest hs hbuf hsize hq
  have h4 := s.params.four_le_dataMax
  have hc : s.Counts 0 [] := ⟨hs, hbuf, hsize⟩
  have hq' : AsFeeds rest (bs ++ []) s.pending := by rw [List.append_nil]; exact hq
  refine ⟨fun hsmall hlen => ?_, fun hlarge hlen => ?_⟩
  · obtain ⟨t, hrun, hfstate, hbuf', hev, -⟩ := run_oversize (feedSource_asFeeds rest) hc
      (by rw [declaredCount_zero]; omega) (by omega) hq'
    exact ⟨t, hrun, hfstate, hbuf', hev⟩
  · obtain ⟨t, hrun, -, hfstate, hbuf', hsize'⟩ := run_whole (feedSource_asFeeds rest) hc
      (hlen.trans declaredCount_zero.symm) (by omega) hq'
    exact ⟨t, hrun, hfstate, hbuf', by rw [State.len, hbuf', List.length_append, hlen]; rfl, hsize'⟩

/-- Settles O21: the buffer is full before the declared bytes have come. -/
theorem oversizeFrameOverflows : Obligations.OversizeFrameOverflows := by
  unfold Obligations.OversizeFrameOverflows
  intro s x bs rest hs hbuf hsize hx hover hq hlen
  have h4 := s.params.four_le_dataMax
  exact run_oversize (cs := []) (feedSource_asFeeds rest) ⟨hs, hbuf, by simpa using hsize⟩
    (by rw [declaredCount_of_ne_zero hx]; omega) (by omega) (by rw [List.append_nil]; exact hq)

/-! ### Progress (R130) -/

/-- The cycle from `t` to `u` completes a frame, finds a header, or clears a full buffer. -/
def Progress (t u : State) : Prop :=
  u.fstate = .complete ∨ (t.fstate ≠ .receiving ∧ u.fstate = .receiving)
    ∨ (u.out.ev = .framingOverflow ∧ u.fstate = .awaitingSync ∧ u.buf = [])

/-- The state takes bytes: it scans from `m`, or it counts with `m` held (R112). -/
def State.Holds (s : State) (m : Memory) : Prop := s.ScansFrom m ∨ s.fstate = .receiving ∧ s.buf = m

/-- A byte fed where there is room for it makes progress, or is kept and leaves room. -/
theorem step_progress (hQ : FeedSource Q) (h : s.Holds m) (hroom : m.length < s.params.dataMax)
    (hq : Q (b :: bs) s.pending) :
    ∃ t, step s = .next t ∧ StillToFeed Q s bs t
      ∧ (Progress s t ∨ t.Holds (m.append b) ∧ m.length + 1 < s.params.dataMax) := by
  rcases h with hscan | ⟨hs, rfl⟩
  · obtain ⟨t, hstep, hstill, hrow⟩ := step_scanRow hQ hscan hroom hq
    refine ⟨t, hstep, hstill, ?_⟩
    cases hrow with
    | header _ hfstate => exact .inl (.inr (.inl ⟨hscan.ne_receiving, hfstate⟩))
    | overflow _ _ hfstate hbuf _ hev => exact .inl (.inr (.inr ⟨hev, hfstate, hbuf⟩))
    | append _ hlt hfstate hbuf => exact .inr ⟨.inl (hbuf ▸ scansFrom_of_awaitingSync hfstate), hlt⟩
  · obtain ⟨t, hstep, hstill, hrow⟩ := step_countRow hQ hs hroom hq
    refine ⟨t, hstep, hstill, ?_⟩
    cases hrow with
    | complete _ hfstate => exact .inl (.inl hfstate)
    | overflow _ _ hfstate hbuf _ hev => exact .inl (.inr (.inr ⟨hev, hfstate, hbuf⟩))
    | append _ hlt hfstate hbuf => exact .inr ⟨.inr ⟨hfstate, hbuf⟩, hlt⟩

/-- Among as many bytes as there is room for, one makes progress. -/
theorem run_progress (hQ : FeedSource Q) (h : s.Holds m) (hroom : m.length < s.params.dataMax)
    (hlen : s.params.dataMax ≤ m.length + bs.length) (hq : Q bs s.pending) :
    ∃ k t u, k < bs.length ∧ run k s = .next t ∧ step t = .next u ∧ Progress t u := by
  induction bs generalizing s m with
  | nil => exact absurd hroom (Nat.not_lt.mpr hlen)
  | cons b bs ih =>
    obtain ⟨t, hstep, hstill, hprogress | ⟨hholds, hlt⟩⟩ := step_progress hQ h hroom hq
    · exact ⟨0, s, t, Nat.zero_lt_succ _, rfl, hstep, hprogress⟩
    · rw [List.length_cons] at hlen
      obtain ⟨k, u, v, hk, hrun, hlast, hprogress⟩ := ih hholds (by simpa [hstill.params] using hlt)
        (by rw [hstill.params, Memory.append_length]; omega) hstill.pending
      exact ⟨k + 1, u, v, Nat.succ_lt_succ hk, (run_succ_next hstep).trans hrun, hlast, hprogress⟩

/-- The invariants leave room for a byte in every state that takes one. -/
theorem State.Inv.holds (hinv : s.Inv) (hne : s.fstate ≠ .complete) :
    ∃ m, s.Holds m ∧ m.length < s.params.dataMax := by
  cases hs : s.fstate with
  | awaitingSync =>
    obtain ⟨hroom, -⟩ := (State.inv_of_awaitingSync hs).mp hinv
    exact ⟨_, .inl (scansFrom_of_awaitingSync hs), hroom⟩
  | receiving =>
    obtain ⟨-, -, -, -, hroom, -⟩ := (State.inv_of_receiving hs).mp hinv
    exact ⟨_, .inr ⟨hs, rfl⟩, hroom⟩
  | complete => exact absurd hs hne
  | restart =>
    exact ⟨_, .inl (scansFrom_of_restart hs), Nat.lt_of_lt_of_le (by decide) s.params.four_le_dataMax⟩

/-- Settles O18: there is room for no more than `DATA_MAX` bytes. -/
theorem dataMaxFeedsMakeProgress : Obligations.DataMaxFeedsMakeProgress := by
  unfold Obligations.DataMaxFeedsMakeProgress
  intro s bs rest hinv hne hq hlen
  obtain ⟨m, hholds, hroom⟩ := hinv.holds hne
  exact run_progress (feedSource_asFeeds rest) hholds hroom (hlen ▸ Nat.le_add_left _ _) hq

/-! ### Frames on the line (R126, R149, R240) -/

theorem frameLength_eq (x : Byte) : frameLength x = 3 + declaredCount x := by
  unfold frameLength declaredCount hdrLen
  split_ifs <;> rfl

/-- DECODE of a complete frame reports what the Codec's `decode` gives (R150). -/
theorem decodeBuffer_result (hs : s.fstate = .complete) (h : s.decodeBuffer = .next t) :
    let r := Codec.decodeFrame s.params (Config.freeMode s.draws) (Config.freeFan s.draws) s.buf
    (∀ c, r = .ok c → t.out.ev = .none ∧ t.out.decOut = some c)
      ∧ ∀ e, r = .error e → t.out.ev = e.event ∧ t.out.decOut = none := by
  rw [State.decodeBuffer, if_neg (not_not.mpr hs)] at h
  refine ⟨fun c hr => ?_, fun e hr => ?_⟩ <;> rw [hr] at h
  · exact Host.Outcome.next.inj h ▸ ⟨rfl, rfl⟩
  · exact Host.Outcome.next.inj h ▸ ⟨rfl, rfl⟩

/-- With the line drained, a complete frame is decoded, and a RESTART is the host's next operation (R240). -/
theorem step_drained_complete (hs : s.fstate = .complete) (h : OnLine rest [] s.pending) :
    ∃ u pending, step s = u.decodeBuffer ∧ s.SameFramer u ∧ u.params = s.params ∧ u.draws = s.draws
      ∧ u.pending = .cycle restartPins :: pending := by
  obtain ⟨xs, hne, hflatten, hpending⟩ := h
  cases xs with
  | nil => exact absurd rfl hne
  | cons y xs =>
    obtain rfl : y = [] := (List.append_eq_nil_iff.mp hflatten).1
    exact ⟨_, _, step_of_fetch (fetch_noise_complete hpending rfl hs), ⟨rfl, rfl, rfl⟩, rfl, rfl, rfl⟩

/-- The RESTART of the loop releases the frame (R240). -/
theorem step_restart {pending : List Stimulus} (h : s.pending = .cycle restartPins :: pending) :
    ∃ t, step s = .next t ∧ t.fstate = .restart ∧ t.buf = s.buf :=
  ⟨_, step_cycle h, rfl, rfl⟩

theorem onLine_of_line (h : s.pending = .line bs :: rest) : OnLine rest bs s.pending :=
  ⟨[bs], List.cons_ne_nil _ _, List.flatten_singleton, h⟩

/-- A whole frame that the buffer holds, on the line of a state that scans with room for the two sync bytes, is complete
after as many cycles as it has bytes (R117, R125). -/
theorem run_frame {f : RawFrame} (hscan : s.ScansFrom m) (hsync : m.length + 2 < s.params.dataMax)
    (hf : f.wellFormed = true) (hlen : f.len ≠ sync) (hroom : f.bytes.length ≤ s.params.dataMax)
    (hq : OnLine rest f.bytes s.pending) :
    ∃ t, run f.bytes.length s = .next t ∧ StillToFeed (OnLine rest) s [] t ∧ t.fstate = .complete
      ∧ t.buf = f.bytes := by
  have hQ := feedSource_onLine rest
  have hbytes : f.bytes = Memory.header f.len ++ (f.cmd :: f.body) := rfl
  have hcount : (f.cmd :: f.body).length = declaredCount f.len := by
    have := (f.wellFormed_iff.mp hf).trans (frameLength_eq f.len)
    rw [List.length_cons]; omega
  rw [hbytes, List.length_append, Memory.header_length] at hroom ⊢
  obtain ⟨u, hrun, hstill, hu⟩ := run_header hQ hscan hsync hlen hq
  obtain ⟨t, hrun', hstill', hfstate, hbuf, -⟩ := run_whole (cs := []) hQ hu hcount (by rwa [hstill.params])
    (by rw [List.append_nil]; exact hstill.pending)
  exact ⟨t, (run_add hrun).trans hrun', hstill.trans hstill', hfstate, hbuf⟩

/-- Settles O53: the frame is received, the drained line decodes it, and the loop's RESTART releases it. -/
theorem frameIsReceivedDecodedReleased : Obligations.FrameIsReceivedDecodedReleased := by
  unfold Obligations.FrameIsReceivedDecodedReleased
  intro s f rest hf hlen hroom hstart hq
  have h4 := s.params.four_le_dataMax
  obtain ⟨m, hscan, hsync⟩ : ∃ m, s.ScansFrom m ∧ m.length + 2 < s.params.dataMax := by
    rcases hstart with ⟨hs, hsync⟩ | hs
    · exact ⟨_, scansFrom_of_awaitingSync hs, hsync⟩
    · exact ⟨_, scansFrom_of_restart hs, show 0 + 2 < _ by omega⟩
  obtain ⟨t, hrun, hstill, hfstate, hbuf⟩ := run_frame hscan hsync hf hlen hroom (onLine_of_line hq)
  obtain ⟨u, pending, hdecode, ⟨hufstate, hubuf, -⟩, huparams, hudraws, hupending⟩ :=
    step_drained_complete hfstate hstill.pending
  obtain ⟨v, hv, hvfstate, hvbuf, -, -, hvpending, -⟩ := decodeBuffer_next u
  obtain ⟨w, hw, hwfstate, hwbuf⟩ := step_restart (hvpending.trans hupending)
  have hrun' : run (f.bytes.length + 1) s = .next v := (run_add hrun).trans ((run_one t).trans (hdecode.trans hv))
  obtain ⟨hok, herror⟩ := decodeBuffer_result (hufstate.trans hfstate) hv
  rw [huparams, hudraws, hubuf, hbuf, hstill.params, hstill.draws] at hok herror
  refine ⟨⟨t, hrun, hfstate, hbuf⟩,
    ⟨v, hrun', hvfstate.trans (hufstate.trans hfstate), hvbuf.trans (hubuf.trans hbuf), ?_⟩,
    w, (run_add hrun').trans ((run_one v).trans hw), hwfstate, hwbuf.trans (hvbuf.trans (hubuf.trans hbuf))⟩
  split
  · next c hc => exact hok c hc
  · next e he => exact herror e he

/-- Settles O54: three sync bytes find no header, and the command byte after them is a header's third byte. -/
theorem lengthByte7EIsNoHeader : Obligations.LengthByte7EIsNoHeader := by
  unfold Obligations.LengthByte7EIsNoHeader
  intro s f rest hlen hstart hq
  have h4 := s.params.four_le_dataMax
  have hscan : s.ScansFrom [] := by
    rcases hstart with ⟨hs, hbuf⟩ | hs
    · exact hbuf ▸ scansFrom_of_awaitingSync hs
    · exact scansFrom_of_restart hs
  have hbytes : f.bytes = [sync, sync, sync] ++ (f.cmd :: f.body) := by rw [RawFrame.bytes, hlen]; rfl
  obtain ⟨t, hrun, hstill, hscan', -⟩ := run_kept (feedSource_onLine rest) hscan
    (Memory.findsNoHeader_replicate_sync [] 3) h4 (hbytes ▸ onLine_of_line hq)
  obtain ⟨hfstate, hbuf⟩ := hscan'.awaitingSync (List.cons_ne_nil _ _)
  refine ⟨t, hrun, hfstate, hbuf, fun hcmd => ?_⟩
  obtain ⟨u, hstep, -, hrow⟩ := step_scanRow (feedSource_onLine rest) hscan' (hstill.params ▸ h4) hstill.pending
  have hheader : (Memory.append [sync, sync, sync] f.cmd).endsInHeader = true :=
    (Memory.append_endsInHeader _ _).mpr ⟨by decide, rfl, rfl, hcmd⟩
  refine ⟨u, (run_add hrun).trans ((run_one t).trans hstep), ?_⟩
  cases hrow with
  | header _ hfstate' hbuf' hsize => exact ⟨hfstate', hbuf', hsize⟩
  | overflow hno | append hno => exact absurd hheader hno

end Sys2Proof.Machine
end

section
/-! PROOFS. DECODE (R140 to R152): the checksum as a sum and what a change of one byte does to it, what `decode` reads of a
frame, and the fields of the record it gives. -/

namespace Sys2Proof.Machine

namespace Codec

variable {p : Params} {m : WireMode} {v : WireFan} {frame f g : List Byte} {i : Nat} {b : Byte}

/-! ### The checksum (R140) -/

/-- Reduction mod 256 is the addition of bytes. -/
theorem cks_eq_sum (frame : List Byte) : cks frame = (frame.drop 2).dropLast.sum := by
  rw [cks, ← BitVec.natCast_eq_ofNat, Nat.cast_list_sum, List.map_map]
  exact congrArg List.sum (List.map_id'' (fun b => by simp) _)

/-- The checksum reads all bytes but the two sync bytes and the last one. -/
theorem summedBytes_length (frame : List Byte) : (frame.drop 2).dropLast.length = frame.length - 1 - 2 := by
  rw [List.length_dropLast, List.length_drop, Nat.sub_right_comm]

/-- Settles O27: the list of summed bytes, indexed from 2. -/
theorem checksumIsModularSum : Obligations.ChecksumIsModularSum := by
  unfold Obligations.ChecksumIsModularSum
  intro frame _
  rw [cks, BitVec.toNat_ofNat, ← Fin.sum_univ_fun_getElem, Finset.sum_Ico_eq_sum_range, ← summedBytes_length,
    Finset.sum_range]
  refine congrArg (· % 2 ^ 8) (Finset.sum_congr rfl fun k _ => ?_)
  have hk : k.1 < frame.length - 1 - 2 := k.isLt.trans_eq (summedBytes_length frame)
  have hin : 2 + k.1 < frame.length := by omega
  simp [hin]

/-- A summed byte that changes carries its change over to the checksum. -/
theorem cks_set (h2 : 2 ≤ i) (hi : i + 1 < frame.length) : cks (frame.set i b) = cks frame + (-frame[i] + b) := by
  have hset : ((frame.set i b).drop 2).dropLast = (frame.drop 2).dropLast.set (i - 2) b := by
    rw [List.dropLast_eq_take, List.dropLast_eq_take, List.drop_set, if_neg (by omega), List.length_set, List.take_set]
  have hlt : i - 2 < (frame.drop 2).dropLast.length := by rw [summedBytes_length]; omega
  have hbyte : (frame.drop 2).dropLast[i - 2] = frame[i] := by
    rw [List.getElem_dropLast, List.getElem_drop]
    congr 1; omega
  rw [cks_eq_sum, cks_eq_sum, hset, List.sum_set', dif_pos hlt, hbyte]

/-- A frame whose last byte is its checksum loses that when one byte from index 2 on changes: the last byte and the
checksum cannot both follow (R152). -/
theorem cks_ne_getLast?_of_set (hc : some (cks frame) = frame.getLast?) (h2 : 2 ≤ i) (hi : i < frame.length)
    (hb : frame[i]? ≠ some b) : some (cks (frame.set i b)) ≠ (frame.set i b).getLast? := by
  rw [List.getLast?_eq_getElem?] at hc ⊢
  rw [List.length_set]
  by_cases hlast : i = frame.length - 1
  · subst hlast
    rw [cks_set_last, List.getElem?_set_self hi, hc]
    exact hb
  · rw [List.getElem?_set_ne hlast, cks_set h2 (by omega), ← hc]
    intro heq
    have hzero : -frame[i] + b = 0 := add_eq_left.mp (Option.some.inj heq)
    exact hb ((List.getElem?_eq_getElem hi).trans (congrArg some (neg_add_eq_zero.mp hzero)))

/-- Settles O34: the length is the old one, and the checksum fails. -/
theorem singleByteChangeDetected : Obligations.SingleByteChangeDetected := by
  unfold Obligations.SingleByteChangeDetected
  intro p m m' v v' frame c i b h h2 hi hb
  obtain ⟨hmin, hc, -⟩ := decodeFrame_eq_ok_iff.mp h
  rw [decodeFrame, List.length_set, if_neg hmin.not_gt, if_pos (cks_ne_getLast?_of_set hc h2 hi hb)]

/-! ### The sync bytes (R151) -/

/-- A field's byte is none of the sync bytes (R57, R80). -/
theorem raw_congr_of_drop (h : f.drop 2 = g.drop 2) (x : Field) : raw f x = raw g x := by
  have hindex : fieldIndex x = 2 + (1 + x.off) := by simp only [fieldIndex, payloadBase]; omega
  simp only [raw, List.getD_eq_getElem?_getD, hindex, ← List.getElem?_drop, h]

theorem extract_congr_of_drop (h : f.drop 2 = g.drop 2) (t : Layout) : extract t m v f = extract t m v g := by
  simp only [extract, decodedMode, decodedFan, raw_congr_of_drop h]

theorem getLast?_congr_of_drop (hf : 2 < f.length) (hg : 2 < g.length) (h : f.drop 2 = g.drop 2) :
    f.getLast? = g.getLast? := by
  have hlast := congrArg List.getLast? h
  rwa [List.getLast?_drop, List.getLast?_drop, if_neg hf.not_ge, if_neg hg.not_ge] at hlast

/-- Settles O33: too short alike, or long enough to have the last byte, the checksum and the fields in common. -/
theorem decodeIgnoresSyncBytes : Obligations.DecodeIgnoresSyncBytes := by
  unfold Obligations.DecodeIgnoresSyncBytes
  intro p m v f g hlen h
  by_cases hshort : f.length < p.minFrameSize
  · rw [decodeFrame, decodeFrame, if_pos hshort, if_pos (hlen ▸ hshort)]
  · have hsix := p.six_le_min
    have hlast := getLast?_congr_of_drop (by omega) (by omega) h
    rw [decodeFrame, decodeFrame, cks, cks, h, hlen, hlast, extract_congr_of_drop h]

/-! ### The mode and the fan of a record (R145, R146) -/

theorem decodedMode_off (h : raw frame p.layout.power = 0) : decodedMode p.layout m frame = .off := if_pos h

/-- With power, the mode is the assigned one, or else one of the transmitted five. -/
theorem decodedMode_on (h : raw frame p.layout.power = 1) :
    (∀ n, p.layout.modeCode.code n = raw frame p.layout.mode → decodedMode p.layout m frame = modeOfWire n)
      ∧ ∃ n, decodedMode p.layout m frame = modeOfWire n := by
  rw [decodedMode, if_neg (by rw [h]; decide)]
  exact ⟨fun n hn => by rw [← hn, modeOfCode_code, Option.getD_some], _, rfl⟩

theorem decodedFan_turbo (h : raw frame p.layout.turbo = 1) : decodedFan p.layout v frame = .turbo := if_pos h

/-- Without the turbo bit, the fan is the assigned level, or else one of the four. -/
theorem decodedFan_level (h : raw frame p.layout.turbo = 0) :
    (∀ w, p.layout.fanCode.code w = raw frame p.layout.fanLevel → decodedFan p.layout v frame = fanOfWire w)
      ∧ ∃ w, decodedFan p.layout v frame = fanOfWire w := by
  rw [decodedFan, if_neg (by rw [h]; decide)]
  exact ⟨fun w hw => by rw [← hw, fanOfCode_code, Option.getD_some], _, rfl⟩

theorem swing_ofPort_eq_full_iff (n : Nat) : Swing.ofPort (decide (n = 1)) = .full ↔ n = 1 := by
  simp [Swing.ofPort]

end Codec

/-! ### The operation (R150) -/

/-- Settles O28: no frame is complete, and the report is NoFrame. -/
theorem decodeWithoutFrame : Obligations.DecodeWithoutFrame := fun _ => decodeBuffer_noFrame

/-- Settles O31: the record is the extracted one; mode and fan have their own cases, every other field is its raw value. -/
theorem decodeDeliversFields : Obligations.DecodeDeliversFields := by
  unfold Obligations.DecodeDeliversFields
  intro s hs hmin hc
  exact ⟨_, decodeBuffer_ok hs hmin hc.symm, decide_eq_true_iff,
    Codec.decodedMode_off, Codec.decodedMode_on, Codec.decodedFan_turbo, Codec.decodedFan_level, rfl, rfl,
    Codec.swing_ofPort_eq_full_iff _, Codec.swing_ofPort_eq_full_iff _,
    decide_eq_true_iff, decide_eq_true_iff, decide_eq_true_iff, decide_eq_true_iff, decide_eq_true_iff, rfl, rfl⟩

end Sys2Proof.Machine
end

section
/-! PROOFS. ENCODE (R170 to R183): the raw value it leaves in each field, the record `decode` gives back, and the frame
as the Framer receives it. -/

namespace Sys2Proof

/-! ### The frame size, masks and valid records (R8, R31, R84) -/

theorem Params.six_le_enc (p : Params) : 6 ≤ p.encFrameSize := p.six_le_min.trans p.min_le_enc

/-- R84 (a): a mask is a run of one bits from bit 0, so a value that fits the field passes it unchanged. -/
theorem Params.and_field_mask (p : Params) (f : FieldName) {n : Nat} (h : n ≤ (p.layout.field f).mask) :
    n &&& (p.layout.field f).mask = n := by
  obtain ⟨k, hk⟩ : ∃ k, (p.layout.field f).mask = 2 ^ k - 1 := by
    have hmem := p.field_mask_mem f
    simp only [List.mem_cons, List.not_mem_nil, or_false] at hmem
    rcases hmem with hk | hk | hk | hk | hk | hk | hk | hk
    exacts [⟨1, hk⟩, ⟨2, hk⟩, ⟨3, hk⟩, ⟨4, hk⟩, ⟨5, hk⟩, ⟨6, hk⟩, ⟨7, hk⟩, ⟨8, hk⟩]
  have hpos := Nat.two_pow_pos k
  rw [hk] at h ⊢
  exact Nat.and_two_pow_sub_one_of_lt_two_pow (by omega)

theorem Params.field_mask_le (p : Params) (f : FieldName) : (p.layout.field f).mask ≤ 255 := by
  have hmem := p.field_mask_mem f
  simp only [List.mem_cons, List.not_mem_nil, or_false] at hmem
  omega

theorem ClimateState.valid_iff {p : Params} {c : ClimateState} :
    c.valid p = true ↔ c.mode ≠ .heatCool ∧ c.power = decide (c.mode ≠ .off)
      ∧ 0 ≤ c.targetTemp + p.layout.tempSet.noff ∧ c.targetTemp + p.layout.tempSet.noff ≤ p.layout.tempSet.mask
      ∧ c.display ≤ p.layout.display.mask ∧ c.displayUnit ≤ p.layout.displayUnit.mask := by
  simp only [ClimateState.valid, Bool.and_eq_true, decide_eq_true_eq, and_assoc]

theorem Swing.portBit_toNat (w : Swing) : w.portBit.toNat = if w = .full then 1 else 0 := by cases w <;> rfl

namespace Machine

variable {Q : List Byte → List Stimulus → Prop} {s t : State} {x : Byte} {bs cs : List Byte}

namespace Codec

variable {p : Params} {c : ClimateState} {g : FieldName} {v : Int}

theorem lo8_eq (v : Int) : lo8 v = (v % 256).toNat := BitVec.toNat_ofInt v

theorem lo8_natCast (n : Nat) : lo8 (n : Int) = n % 256 := by rw [lo8_eq]; omega

/-- A value that fits the field is written as it is (R82). -/
theorem lo8_and_mask (p : Params) (g : FieldName) {n : Nat} (h : n ≤ (p.layout.field g).mask) :
    lo8 (n : Int) &&& (p.layout.field g).mask = n := by
  have hmask := p.field_mask_le g
  rw [lo8_of_nat (by omega), p.and_field_mask g h]

/-! ### The raw value ENCODE leaves in a field (R171 to R177) -/

theorem blankFrame_min_le (p : Params) : p.minFrameSize ≤ (blankFrame p.encFrameSize).length := by
  rw [blankFrame_length (Nat.le_trans (by decide) p.six_le_enc)]
  exact p.min_le_enc

theorem raw_encodeFrame (p : Params) (c : ClimateState) (g : FieldName) :
    raw (encodeFrame p c) (p.layout.field g)
      = raw (putAll p.layout (encodeWrites p.layout c) (blankFrame p.encFrameSize)) (p.layout.field g) :=
  raw_sealFrame p _ g (by rw [putAll_length]; exact blankFrame_min_le p)

/-- A field ENCODE writes has the written value, masked (R82). -/
theorem raw_encodeFrame_of_mem (h : (g, v) ∈ encodeWrites p.layout c) :
    raw (encodeFrame p c) (p.layout.field g) = lo8 v &&& (p.layout.field g).mask := by
  rw [raw_encodeFrame]
  exact raw_putAll_of_mem p _ _ g v (blankFrame_min_le p) (raw_blankFrame p _ g) (encodeWrites_nodup _ c) h

/-- A field ENCODE does not write stays 0 (R171). -/
theorem raw_encodeFrame_of_not_mem (h : ∀ w ∈ encodeWrites p.layout c, w.1 ≠ g) :
    raw (encodeFrame p c) (p.layout.field g) = 0 := by
  rw [raw_encodeFrame, raw_putAll_of_not_mem p _ _ g (blankFrame_min_le p) h, raw_blankFrame]

/-- A code that fits its field is transmitted as it is (R84 (e)). -/
theorem raw_encodeFrame_of_le {n : Nat} (h : (g, (n : Int)) ∈ encodeWrites p.layout c)
    (hn : n ≤ (p.layout.field g).mask) : raw (encodeFrame p c) (p.layout.field g) = n := by
  rw [raw_encodeFrame_of_mem h, lo8_and_mask p g hn]

/-- A one-bit field holds its Bool (R84 (f)). -/
theorem raw_encodeFrame_flag (g : FieldName) (hg : g.isFlag = true) {b : Bool}
    (h : (g, bitOf b) ∈ encodeWrites p.layout c) : raw (encodeFrame p c) (p.layout.field g) = b.toNat := by
  have hbit : bitOf b = (b.toNat : Int) := by cases b <;> rfl
  exact raw_encodeFrame_of_le (hbit ▸ h) (p.flag_mask hg ▸ b.toNat_le)

/-- The mode field: the code of a transmitted mode, 0 for Off and HeatCool (R173). -/
theorem raw_encodeFrame_mode (p : Params) (c : ClimateState) :
    raw (encodeFrame p c) p.layout.mode = (wireOfMode c.mode).elim 0 p.layout.modeCode.code := by
  cases h : wireOfMode c.mode with
  | none =>
    refine raw_encodeFrame_of_not_mem (g := .mode) ?_
    unfold encodeWrites modeWrites fanWrites
    split_ifs <;> simp [h]
  | some m =>
    exact raw_encodeFrame_of_le (g := .mode) (by simp [encodeWrites, modeWrites, h]) (p.modeCode_le m)

/-- The turbo bit is the one Turbo writes (R175). -/
theorem raw_encodeFrame_turbo (p : Params) (c : ClimateState) :
    raw (encodeFrame p c) p.layout.turbo = if c.fan = .turbo then 1 else 0 := by
  split_ifs with h
  · exact raw_encodeFrame_flag .turbo rfl (b := true) (by simp [encodeWrites, fanWrites, h, bitOf])
  · refine raw_encodeFrame_of_not_mem (g := .turbo) ?_
    unfold encodeWrites modeWrites fanWrites
    cases wireOfMode c.mode <;> simp [h]

/-- The level field: the code of the fan's level, High's beneath the turbo bit (R175). -/
theorem raw_encodeFrame_fanLevel (p : Params) (c : ClimateState) :
    raw (encodeFrame p c) p.layout.fanLevel = p.layout.fanCode.code (levelOfFan c.fan) := by
  refine raw_encodeFrame_of_le (g := .fanLevel) ?_ (p.fanCode_le _)
  by_cases h : c.fan = .turbo <;> simp [encodeWrites, fanWrites, h, levelOfFan]

/-- ENCODE never writes the measured temperature (R177). -/
theorem raw_encodeFrame_tempCur (p : Params) (c : ClimateState) : raw (encodeFrame p c) p.layout.tempCur = 0 := by
  refine raw_encodeFrame_of_not_mem (g := .tempCur) fun w hw he => ?_
  have hdir := encodeWrites_direction p.layout c w hw
  rw [he] at hdir
  cases hdir

/-- Settles O38: the mode, the fan and `temp_cur` have their own lemmas; every other field is written once. -/
theorem encodedFieldValues : Obligations.EncodedFieldValues := by
  unfold Obligations.EncodedFieldValues
  intro p c
  refine ⟨raw_encodeFrame_flag .power rfl ?_, ?mode, ?setpoint, raw_encodeFrame_turbo p c, ?level, ?swingV, ?swingH,
    raw_encodeFrame_flag .plasma rfl ?_, raw_encodeFrame_flag .beeper rfl ?_, raw_encodeFrame_flag .sleep rfl ?_,
    raw_encodeFrame_flag .xfan rfl ?_, raw_encodeFrame_flag .save rfl ?_, ?display, ?displayUnit,
    raw_encodeFrame_tempCur p c⟩
  case mode =>
    rw [raw_encodeFrame_mode]
    cases c.mode <;> rfl
  case level =>
    rw [raw_encodeFrame_fanLevel]
    cases c.fan <;> rfl
  case setpoint => exact lo8_eq _ ▸ raw_encodeFrame_of_mem (g := .tempSet) (by simp [encodeWrites])
  case swingV => exact Swing.portBit_toNat _ ▸ raw_encodeFrame_flag .swingV rfl (by simp [encodeWrites])
  case swingH => exact Swing.portBit_toNat _ ▸ raw_encodeFrame_flag .swingH rfl (by simp [encodeWrites])
  case display => exact lo8_natCast _ ▸ raw_encodeFrame_of_mem (g := .display) (by simp [encodeWrites])
  case displayUnit => exact lo8_natCast _ ▸ raw_encodeFrame_of_mem (g := .displayUnit) (by simp [encodeWrites])
  all_goals simp [encodeWrites]

/-! ### ENCODE's frame and its checksum (R172, R178) -/

theorem encodeFrame_take_four (p : Params) (c : ClimateState) :
    (encodeFrame p c).take 4 = [sync, sync, BitVec.ofNat 8 (p.encFrameSize - hdrLen), cmdSet] := by
  have hsix := p.six_le_enc
  refine List.ext_getElem? fun i => ?_
  rw [List.getElem?_take]
  split_ifs with hi
  · rw [encodeFrame_getElem? p c (by omega), putAll_getElem?_of_lt p _ _ hi, blankFrame, List.getElem?_append_left hi]
  · exact (List.getElem?_eq_none (Nat.le_of_not_lt hi)).symm

theorem encodeFrame_getLast? (p : Params) (c : ClimateState) :
    (encodeFrame p c).getLast? = some (cks (encodeFrame p c)) := by
  have hlen : 0 < (encodeFrame p c).length := by
    rw [encodeFrame_length]
    exact Nat.lt_of_lt_of_le (by decide) p.six_le_enc
  rw [encodeFrame, sealFrame_length] at hlen
  rw [encodeFrame, sealFrame_getLast? _ (List.ne_nil_of_length_pos hlen), cks_sealFrame]

/-- Settles O37: the writes and the seal leave the first four bytes, and the seal is the checksum, which does not read
its own byte. -/
theorem encodedFrameHeaderAndChecksum : Obligations.EncodedFrameHeaderAndChecksum := fun p c =>
  ⟨encodeFrame_length p c, encodeFrame_take_four p c, encodeFrame_getLast? p c⟩

/-! ### The round trip (R181) -/

/-- Every mode but Off and HeatCool is transmitted, and read back as itself (R145, R173). -/
theorem exists_wireOfMode {m : Mode} (hoff : m ≠ .off) (hheat : m ≠ .heatCool) :
    ∃ n, wireOfMode m = some n ∧ modeOfWire n = m := by
  cases m with
  | off => exact absurd rfl hoff
  | heatCool => exact absurd rfl hheat
  | auto | cool | heat | fanOnly | dry => exact ⟨_, rfl, rfl⟩

theorem fanOfWire_levelOfFan {v : Fan} (h : v ≠ .turbo) : fanOfWire (levelOfFan v) = v := by
  cases v with
  | turbo => exact absurd rfl h
  | auto | low | medium | high => rfl

/-- The power bit gates Off, and every other mode of a valid record is one of the five with a code (R145, R173). -/
theorem decodedMode_encodeFrame (hc : c.valid p = true) (free : WireMode) :
    decodedMode p.layout free (encodeFrame p c) = c.mode := by
  obtain ⟨hheat, hpower, -⟩ := ClimateState.valid_iff.mp hc
  obtain ⟨hraw, -⟩ := encodedFieldValues p c
  rw [hpower] at hraw
  by_cases hoff : c.mode = .off
  · rw [decodedMode_off (by simpa [hoff] using hraw), hoff]
  · obtain ⟨n, hn, hmode⟩ := exists_wireOfMode hoff hheat
    obtain ⟨hassigned, -⟩ := decodedMode_on (m := free) (by simpa [hoff] using hraw)
    rw [hassigned n (by rw [raw_encodeFrame_mode, hn, Option.elim_some]), hmode]

/-- The turbo bit tells Turbo from High (R146, R175). -/
theorem decodedFan_encodeFrame (p : Params) (c : ClimateState) (free : WireFan) :
    decodedFan p.layout free (encodeFrame p c) = c.fan := by
  have hturbo := raw_encodeFrame_turbo p c
  by_cases h : c.fan = .turbo
  · rw [decodedFan_turbo (hturbo.trans (if_pos h)), h]
  · obtain ⟨hassigned, -⟩ := decodedFan_level (v := free) (hturbo.trans (if_neg h))
    rw [hassigned _ (raw_encodeFrame_fanLevel p c).symm, fanOfWire_levelOfFan h]

/-- A setpoint within the field's range is transmitted with its offset added (R174). -/
theorem raw_encodeFrame_tempSet (hlow : 0 ≤ c.targetTemp + p.layout.tempSet.noff)
    (hhigh : c.targetTemp + p.layout.tempSet.noff ≤ p.layout.tempSet.mask) :
    (raw (encodeFrame p c) p.layout.tempSet : Int) = c.targetTemp + p.layout.tempSet.noff := by
  obtain ⟨n, hn⟩ := Int.eq_ofNat_of_zero_le hlow
  have hfit : n ≤ (p.layout.field .tempSet).mask := Int.ofNat_le.mp (hn ▸ hhigh)
  rw [hn]
  exact congrArg Nat.cast (raw_encodeFrame_of_le (g := .tempSet) (by simp [encodeWrites, hn]) hfit)

/-- What DECODE extracts from the frame of a valid record (R181). -/
theorem extract_encodeFrame (hc : c.valid p = true) (m : WireMode) (v : WireFan) :
    extract p.layout m v (encodeFrame p c) = { c with currentTemp := -p.layout.tempCur.noff } := by
  obtain ⟨-, -, hlow, hhigh, hdisplay, hunit⟩ := ClimateState.valid_iff.mp hc
  obtain ⟨hpower, -, -, -, -, hswingV, hswingH, hplasma, hbeeper, hsleep, hxfan, hsave, -, -, htempCur⟩ :=
    encodedFieldValues p c
  have htempSet := raw_encodeFrame_tempSet hlow hhigh
  have hrawDisplay : raw (encodeFrame p c) p.layout.display = c.display :=
    raw_encodeFrame_of_le (g := .display) (by simp [encodeWrites]) hdisplay
  have hrawUnit : raw (encodeFrame p c) p.layout.displayUnit = c.displayUnit :=
    raw_encodeFrame_of_le (g := .displayUnit) (by simp [encodeWrites]) hunit
  simp only [extract, decodedMode_encodeFrame hc, decodedFan_encodeFrame, hpower, htempSet, hswingV, hswingH, hplasma,
    hbeeper, hsleep, hxfan, hsave, hrawDisplay, hrawUnit, htempCur, ← Swing.portBit_toNat, Swing.ofPort_portBit,
    Bool.toNat_eq_one, Bool.decide_eq_true, Nat.cast_zero, Int.zero_sub, add_sub_cancel_right]

/-- Settles O40: the frame passes both checks, and each field is read back. -/
theorem decodeOfEncodeRecoversState : Obligations.DecodeOfEncodeRecoversState := by
  unfold Obligations.DecodeOfEncodeRecoversState
  intro p m v c hc
  exact decodeFrame_eq_ok_iff.mpr ⟨p.min_le_enc.trans_eq (encodeFrame_length p c).symm,
    (encodeFrame_getLast? p c).symm, extract_encodeFrame hc m v⟩

end Codec

/-! ### The frame ENCODE presents, and its reception (R180, R182) -/

/-- Settles O36: ENCODE's one next state, whose frame has `ENC_FRAME_SIZE` bytes. -/
theorem encodePresentsFrame : Obligations.EncodePresentsFrame := fun c s =>
  ⟨_, exec_encode c s, Codec.encodeFrame_length _ c, rfl⟩

/-- The length byte is not reduced (R8 (d), R172). -/
theorem encLength_toNat (p : Params) : (BitVec.ofNat 8 (p.encFrameSize - hdrLen)).toNat = p.encFrameSize - hdrLen := by
  have hmax := p.enc_le
  rw [BitVec.toNat_ofNat, Nat.mod_eq_of_lt]
  unfold hdrLen; omega

/-- ENCODE's frame is a header and as many bytes as it declares (R8, R172). -/
theorem encodeFrame_eq_header_append (p : Params) (c : ClimateState) :
    ∃ x body, Codec.encodeFrame p c = Memory.header x ++ body ∧ x ≠ sync ∧ body.length = declaredCount x := by
  have hsix := p.six_le_enc
  have hlen := encLength_toNat p
  have hhead := congrArg (List.take hdrLen) (Codec.encodeFrame_take_four p c)
  rw [List.take_take] at hhead
  refine ⟨BitVec.ofNat 8 (p.encFrameSize - hdrLen), (Codec.encodeFrame p c).drop hdrLen,
    (List.take_append_drop hdrLen _).symm.trans (congrArg (· ++ _) hhead), fun hsync => ?_, ?_⟩
  · exact p.enc_length_ne_sync (hlen.symm.trans (congrArg BitVec.toNat hsync))
  · rw [List.length_drop, Codec.encodeFrame_length, declaredCount_of_ne_zero, hlen]
    intro hzero
    have hnone : p.encFrameSize - hdrLen = 0 := hlen.symm.trans (congrArg BitVec.toNat hzero)
    unfold hdrLen at hnone; omega

/-- Bytes after a header, no more than it declares, that end in Complete report None (R117, R119). -/
theorem run_complete_ev (hQ : FeedSource Q) (h : s.Counts x []) (hcount : bs.length ≤ declaredCount x)
    (hroom : 3 + bs.length ≤ s.params.dataMax) (hq : Q (bs ++ cs) s.pending) (hrun : run bs.length s = .next t)
    (ht : t.fstate = .complete) : t.out.ev = .none := by
  obtain rfl | ⟨init, b, rfl⟩ := bs.eq_nil_or_concat'
  · obtain rfl := Host.Outcome.next.inj hrun
    simp [h.fstate] at ht
  · have hlen : (init ++ [b]).length = init.length + 1 := List.length_append
    obtain ⟨u, hrun', -, hrow⟩ := run_counted_last hQ h (by omega) (by omega) hq
    obtain rfl := Host.Outcome.next.inj (hrun'.symm.trans hrun)
    cases hrow with
    | complete _ _ _ _ hev => exact hev
    | overflow _ _ hfstate | append _ _ hfstate => simp [ht] at hfstate

/-- Settles O41: the header is found, and the bytes after it are as many as it declares. -/
theorem encodedFrameIsReceived : Obligations.EncodedFrameIsReceived := by
  unfold Obligations.EncodedFrameIsReceived
  intro s c rest hs hbuf hroom hq
  have hQ := feedSource_asFeeds rest
  have h4 := s.params.four_le_dataMax
  obtain ⟨x, body, hframe, hsync, hcount⟩ := encodeFrame_eq_header_append s.params c
  have hlen : s.params.encFrameSize = 3 + body.length := by
    rw [← Codec.encodeFrame_length s.params c, hframe, List.length_append, Memory.header_length]
  rw [hframe] at hq ⊢
  rw [hlen] at hroom ⊢
  obtain ⟨t, hrun, hstill, ht⟩ := run_header (m := []) (bs := body) hQ (hbuf ▸ scansFrom_of_awaitingSync hs)
    (show 0 + 2 < _ by omega) hsync hq
  have hq' : AsFeeds rest (body ++ []) t.pending := by rw [List.append_nil]; exact hstill.pending
  rw [← hstill.params] at hroom
  obtain ⟨u, hrun', hstill', hfstate, hubuf, hsize⟩ := run_whole hQ ht hcount hroom hq'
  exact ⟨u, (run_add hrun).trans hrun', hfstate, hubuf, hsize,
    run_complete_ev hQ ht hcount.le hroom hq' hrun' hfstate, hstill'.pending⟩

end Machine
end Sys2Proof
end

section
/-! PROOFS. The events DECODE reports for a Complete frame that fails one of its two checks (R202, R203). -/

namespace Sys2Proof.Machine

/-- Settles O29: the length is checked first, so the checksum plays no part. -/
theorem decodeRejectsShortFrame : Obligations.DecodeRejectsShortFrame := fun _ => decodeBuffer_underlength

/-- Settles O30: the frame passes the length check, and a last byte that is not the checksum fails the second one. -/
theorem decodeRejectsBadChecksum : Obligations.DecodeRejectsBadChecksum := by
  unfold Obligations.DecodeRejectsBadChecksum
  intro s b hs hmin hlast hb
  have hc : some (Codec.cks s.buf) ≠ s.buf.getLast? := by
    rw [hlast]
    exact fun heq => hb (Option.some.inj heq).symm
  exact decodeBuffer_mismatch hs hmin hc

end Sys2Proof.Machine
end

section
/-! PROOFS. The reference receive loop as a whole (R240, R242): in Complete it decodes and then releases the frame, and a
record sent over the line of one instance comes back. -/

namespace Sys2Proof.Machine

variable {s : State}

/-! ### The loop in Complete (R240) -/

/-- In Complete the loop decodes the frame it holds and puts its RESTART before the bytes on the line, cut in two where
they begin with a frame. -/
theorem step_line_complete {bs : List Byte} {rest : List Stimulus} (hs : s.fstate = .complete)
    (h : s.pending = .line bs :: rest) :
    ∃ xs : List (List Byte), xs.flatten = bs ∧ step s = exec .decode
      { s with pending := encode .restart :: (xs.map .line ++ rest), out := { s.out with rdData := s.buf[0]? } } := by
  cases hd : decodeFrame s.params.cmdReport bs with
  | error e => exact ⟨[bs], List.flatten_singleton, step_of_fetch (fetch_noise_complete h hd hs)⟩
  | ok r =>
    obtain ⟨i, left⟩ := r
    obtain ⟨f, -, rfl, rfl⟩ := decodeFrame_eq_ok_iff.mp hd
    exact ⟨[f.bytes, left], by simp, (step_lineFrame h hd).trans ((exec_frameKind _ f _).trans (pollBytes_complete hs))⟩

/-- The cycle of a RESTART stimulus runs RESTART, with the read port at index 0. -/
theorem step_encode_restart {rest : List Stimulus} (h : s.pending = encode .restart :: rest) :
    step s = exec .restart { s with pending := rest, out := { s.out with rdData := s.buf[0]? } } := by
  have hidx : restartPins.rdIdx % 2 ^ s.lenWidth = 0 := Nat.zero_mod _
  rw [step_cycle (w := restartPins) h, hidx]
  rfl

/-- Settles O51: DECODE writes no state element and leaves the loop's RESTART first in store. -/
theorem loopDecodesThenRestarts : Obligations.LoopDecodesThenRestarts := by
  unfold Obligations.LoopDecodesThenRestarts
  intro s bs rest hs hp
  obtain ⟨xs, hxs, hstep⟩ := step_line_complete hs hp
  obtain ⟨t, ht, hfstate, hbuf, hsize, -, hpending, -⟩ := decodeBuffer_next
    { s with pending := encode .restart :: (xs.map .line ++ rest), out := { s.out with rdData := s.buf[0]? } }
  have hrestart := step_encode_restart hpending
  exact ⟨xs, t, _, hxs, hstep, hstep.trans ht, hrestart, hrestart.trans (restartOnlySetsRestart _),
    ⟨hfstate, hbuf, hsize⟩, rfl, hbuf, rfl⟩

/-! ### Loopback (R242) -/

/-- ENCODE's frame is a whole frame of the wire format, and its length byte is no sync byte (R8, R73, R172). -/
theorem encodeFrame_eq_frame_bytes (p : Params) (c : ClimateState) :
    ∃ f : RawFrame, Codec.encodeFrame p c = f.bytes ∧ f.wellFormed = true ∧ f.len ≠ sync := by
  obtain ⟨x, body, hframe, hsync, hcount⟩ := encodeFrame_eq_header_append p c
  cases body with
  | nil => exact absurd hcount (Nat.ne_of_lt (declaredCount_pos x))
  | cons cmd body =>
    have hlen : body.length + 4 = frameLength x := by
      rw [frameLength_eq, ← hcount, List.length_cons]; omega
    exact ⟨⟨x, cmd, body⟩, hframe, (RawFrame.wellFormed_iff _).mpr hlen, hsync⟩

/-- Settles O42: the loop receives and decodes ENCODE's frame, and DECODE inverts ENCODE. -/
theorem loopbackReturnsState : Obligations.LoopbackReturnsState := by
  unfold Obligations.LoopbackReturnsState
  intro s c hstart hroom hvalid hp
  obtain ⟨f, hframe, hf, hlen⟩ := encodeFrame_eq_frame_bytes s.params c
  have hsize : f.bytes.length = s.params.encFrameSize := hframe ▸ Codec.encodeFrame_length s.params c
  rw [hframe] at hp
  obtain ⟨-, ⟨t, hrun, -, -, hresult⟩, -⟩ :=
    frameIsReceivedDecodedReleased s f [] hf hlen (hsize ▸ hroom) hstart hp
  rw [← hframe, Codec.decodeOfEncodeRecoversState _ _ _ _ hvalid] at hresult
  exact ⟨t, hsize ▸ hrun, hresult⟩

end Sys2Proof.Machine
end
